-- ==== Sys2Proof/Word.lean ====
section
/-! DEFINITION. The unit of every value of the block, and the frame register's type. -/

namespace Sys2Proof

/-- A byte: "an unsigned 8-bit value, 0 to 255" (R86). No stored value is wider (R21, R23). -/
abbrev Byte := BitVec 8

/-- The contents of the frame register `F`: "a file of 36 byte registers" (R11), indices 0 to 35 (R20).
36 is `FRAME_BYTES` (R5, `90_conflicts.md` C1); index 36 does not exist (R25). -/
abbrev Frame := Vector Byte 36

end Sys2Proof
end

