-- ==== Sys2Proof/Syntax.lean ====
section
/-! DEFINITION. The nine commands (R2, R33), one constructor per row of spec/opcode_table.json. -/

namespace Sys2Proof

/-- A command, decoded. ENC and RXW carry their operand bytes, of any number and any values (R7, R34);
the other seven have no operand. CORR's draw is not part of the packet (R17, R34). -/
inductive Instr where
  /-- ENC(M), opcode 0x10 (R46). -/
  | enc (message : List Byte)
  /-- VAL, opcode 0x20 (R51). -/
  | val
  /-- CORC, opcode 0x30 (R56). -/
  | corc
  /-- CORS, opcode 0x31 (R57). -/
  | cors
  /-- CORE, opcode 0x32 (R58). -/
  | core
  /-- CORR, opcode 0x33 (R59). -/
  | corr
  /-- TXW, opcode 0x40 (R62). -/
  | txw
  /-- RXW(W), opcode 0x50 (R63). -/
  | rxw (wire : List Byte)
  /-- CSUM, opcode 0x60 (R44). -/
  | csum
  deriving DecidableEq, Repr

end Sys2Proof
end

