-- ==== Sys2Proof/WellFormed.lean ====
section
/-! DEFINITION. Which byte sequences are well-formed command packets (R31, R33, R34). Every term of `Instr`
is well formed: the spec bounds no operand (R7) and a wrong RXW length is a framing error of the command,
not an ill-formed packet (R63). -/

namespace Sys2Proof

/-- The opcodes of format `OPV`: ENC and RXW take any operand (R31, R33). -/
def Packet.opvOpcodes : List Byte := [0x10, 0x50]

/-- The opcodes of format `OP`: one byte, no operand (R31, R33). -/
def Packet.opOpcodes : List Byte := [0x20, 0x30, 0x31, 0x32, 0x33, 0x40, 0x60]

/-- "A command packet is a non-empty finite sequence of bytes" (R31). -/
def Packet.hasOpcode (c : List Byte) : Bool := !c.isEmpty

/-- The first byte is one of the nine assigned opcodes (R33, R37). -/
def Packet.opcodeAssigned (c : List Byte) : Bool :=
  match c with
  | [] => false
  | op :: _ => Packet.opvOpcodes.contains op || Packet.opOpcodes.contains op

/-- A packet whose opcode is of format `OP` has length 1 (R34). -/
def Packet.operandAllowed (c : List Byte) : Bool :=
  match c with
  | [] => true
  | op :: operand => !Packet.opOpcodes.contains op || operand.isEmpty

/-- All three checks: the packet "is well formed" (R68) and so decodes. -/
def Packet.wellFormed (c : List Byte) : Bool :=
  Packet.hasOpcode c && Packet.opcodeAssigned c && Packet.operandAllowed c

end Sys2Proof
end

