-- ==== Sys2Proof/Decode.lean ====
section
/-! DEFINITION. The decoder, total on every byte sequence and rejecting by name (R38), the encoder, and the
reading of an opcode-table word. -/

namespace Sys2Proof

/-- Why a byte sequence is no command. -/
inductive Reject where
  /-- No byte at all: "not a command packet: the block takes no step" (R38). -/
  | emptyPacket
  /-- One of the 247 reserved opcodes (R37). -/
  | reservedOpcode (op : Byte)
  /-- Operand bytes after an opcode of format `OP` (R34). -/
  | operandOnOp (op : Byte)
  deriving DecidableEq, Repr

/-- What the decoder answers. -/
inductive Decoded where
  | ok (i : Instr)
  | reject (r : Reject)
  deriving DecidableEq, Repr

/-- The major opcode `C[0][7:4]` (R32). -/
def major (op : Byte) : BitVec 4 := op.extractLsb' 4 4

/-- The minor opcode `C[0][3:0]` (R32). -/
def minor (op : Byte) : BitVec 4 := op.extractLsb' 0 4

/-- The seven commands of format `OP`, by opcode (R33); `none` for every other opcode. -/
def opCommand (op : Byte) : Option Instr :=
  if op = 0x20 then some .val
  else if op = 0x30 then some .corc
  else if op = 0x31 then some .cors
  else if op = 0x32 then some .core
  else if op = 0x33 then some .corr
  else if op = 0x40 then some .txw
  else if op = 0x60 then some .csum
  else none

/-- `Decode(C)` of R38. All eight bits of the opcode are compared (R33). -/
def decode (c : List Byte) : Decoded :=
  match c with
  | [] => .reject .emptyPacket
  | op :: operand =>
    if op = 0x10 then .ok (.enc operand)
    else if op = 0x50 then .ok (.rxw operand)
    else
      match opCommand op with
      | some i => if operand = [] then .ok i else .reject (.operandOnOp op)
      | none => .reject (.reservedOpcode op)

/-- The opcode byte of a command (R33). -/
def opcodeOf (i : Instr) : Byte :=
  match i with
  | .enc _ => 0x10
  | .val => 0x20
  | .corc => 0x30
  | .cors => 0x31
  | .core => 0x32
  | .corr => 0x33
  | .txw => 0x40
  | .rxw _ => 0x50
  | .csum => 0x60

/-- The operand bytes of a command (R34); empty for the seven of format `OP`. -/
def operandOf (i : Instr) : List Byte :=
  match i with
  | .enc m => m
  | .rxw w => w
  | .val | .corc | .cors | .core | .corr | .txw | .csum => []

/-- The packet of a command: the opcode, then the operand (R31). -/
def encode (i : Instr) : List Byte := opcodeOf i :: operandOf i

/-- The packet whose bits are `w` as spec/opcode_table.json numbers them: byte `k` is bits 8k+7 to 8k.
A packet arrives with its exact length (R31), so it has as many bytes as `nbits` needs and no more. -/
def packetOfWord (nbits w : Nat) : List Byte :=
  (List.range ((nbits + 7) / 8)).map fun k => BitVec.ofNat 8 (w >>> (8 * k))

/-- What the decoder reads from an opcode-table word. -/
def decodeTableWord (nbits w : Nat) : Option Instr :=
  match decode (packetOfWord nbits w) with
  | .ok i => some i
  | .reject _ => none

end Sys2Proof
end

