-- ==== Sys2Proof/Machine/Constants.lean ====
section
/-! DEFINITION. The constants of R5 under the spec's names. -/

namespace Sys2Proof.Machine

/-- `STX`. -/
def stx : Byte := 0x02

/-- `ETX`. -/
def etx : Byte := 0x03

/-- `PAYLOAD_CAP`. -/
def payloadCap : Nat := 32

/-- `BAD_SENTINEL`. -/
def badSentinel : Byte := 0xFF

/-- `CSUM_MOD`. -/
def csumMod : Nat := 256

/-- `FRAME_BYTES` = 1 + 1 + `PAYLOAD_CAP` + 1 + 1. -/
def frameBytes : Nat := 1 + 1 + payloadCap + 1 + 1

/-- `OFF_START`. -/
def offStart : Nat := 0

/-- `OFF_LENGTH`. -/
def offLength : Nat := 1

/-- `OFF_PAYLOAD`. -/
def offPayload : Nat := 2

/-- `OFF_CHECKSUM` = 2 + `PAYLOAD_CAP`. -/
def offChecksum : Nat := 2 + payloadCap

/-- `OFF_END` = `FRAME_BYTES` - 1. -/
def offEnd : Nat := frameBytes - 1

end Sys2Proof.Machine
end

