-- ==== Sys2Proof/Config.lean ====
section
/-! DEFINITION. The free values: what the spec leaves open (R8). Neither has a body, so no proof can see a
value of it, and whatever is proved holds for every value. -/

namespace Sys2Proof

/-- The draw of the n-th CORR: "one of 0, 1, 2", "a fresh free value at every CORR" (R8, R17, R59; log 5). -/
opaque Config.freeDraw : Nat → Fin 3

/-- `RESET_F` after the n-th reset event: "any 36 bytes", and "two resets need not leave the same values"
(R8, R19; log 4). -/
opaque Config.resetFrame : Nat → Frame

end Sys2Proof
end

