-- ==== Sys2Proof/Machine/State.lean ====
section
/-! DEFINITION. The state (R10), the events a host sends, the responses it gets, the reasons a step could stop,
and the state after reset (R19). -/

namespace Sys2Proof.Machine

/-- The nine statuses; "the block never produces another" (R36). -/
inductive Status where
  | valid
  | badStart
  | badEnd
  | badLength
  | badChecksum
  | done
  | errIllegal
  | errNoFrame
  | errFraming
  deriving DecidableEq, Repr

/-- A response: "one status byte and a data byte sequence" (R35). -/
structure Response where
  status : Status
  data : List Byte
  deriving DecidableEq, Repr

/-- The three kinds of corruption, "one of {checksum, start_byte, end_byte}" (R32). -/
inductive CorruptKind where
  | checksum
  | startByte
  | endByte
  deriving DecidableEq, Repr

/-- What the host does to the block: it sends a command packet (R6, R31) or resets it (R75). -/
inductive HostEvent where
  | packet (bytes : List Byte)
  | reset
  deriving DecidableEq, Repr

/-- The machine. `frame` and `present` are "the whole architectural state of the block" (R10). The other
four fields are the model's: the host's side of the interface (`inbox`, `outbox`; log 2) and two counters that
index the free values (`draws`, `resets`; log 6). -/
structure State where
  /-- `F`, the frame register (R11). -/
  frame : Frame
  /-- `PRESENT` (R13). -/
  present : Bool
  /-- What the host has sent and the block has not yet taken, in order (R26, R80). -/
  inbox : List HostEvent
  /-- The responses given so far, oldest first (R80). -/
  outbox : List Response
  /-- How many CORR draws have been taken (R17). -/
  draws : Nat
  /-- How many reset events have happened (R75). -/
  resets : Nat
  deriving DecidableEq, Repr

/-- Why a step could stop with a fault. It has no constructor: "Nothing in the block is `fault` or `stuck`"
(`93_implementation_defined.md` part 2; R67; log 12). -/
inductive Fault where
  deriving DecidableEq, Repr

/-- Why a command could have no meaning. The block's own refusals (R68) are responses, not this. -/
inductive Refusal where
  /-- Raised by an arm of `exec` whose command has no meaning yet; safe. No arm raises it. -/
  | notModelled (mnemonic : String)
  deriving DecidableEq, Repr

/-- The outcome of a step of this machine. -/
abbrev StepOutcome := Host.Outcome State Fault Refusal

/-- The machine right after reset: `PRESENT` = 0 (R19). DESIGN CHOICE, unsafe: `frame` is unspecified by the
spec and is 36 bytes of zero here (log 3); the host has sent nothing and no free value has been used (logs 2, 6). -/
def State.reset : State where
  frame := Vector.replicate 36 0
  present := false
  inbox := []
  outbox := []
  draws := 0
  resets := 0

end Sys2Proof.Machine
end

