-- ==== Sys2Proof/Machine/Ops.lean ====
section
/-! DEFINITION. The named operations over the frame register and the state. Nothing else touches a byte of `F`
or the record of responses. The block has no exception to take (R67, R72): `State.refuse` is what it has in its
place (R69). -/

namespace Sys2Proof.Machine

/-- `MemRead(i, 1)` is `F[i]` (R20). -/
def memRead (f : Frame) (i : Nat) (h : i < 36 := by decide) : Byte := f[i]

/-- `MemWrite(i, 1, v)` is `F[i] <- v` (R20). -/
def memWrite (f : Frame) (i : Nat) (v : Byte) (h : i < 36 := by decide) : Frame := f.set i v

/-- `START` = `F[0]` (R11). -/
def startByte (f : Frame) : Byte := memRead f offStart

/-- `LENGTH` = `F[1]` (R11); it can hold 0 to 255 (R12). -/
def lengthByte (f : Frame) : Byte := memRead f offLength

/-- `PAYLOAD[0..31]` = `F[2..33]` (R11), in order. -/
def payload (f : Frame) : List Byte := (f.toList.drop offPayload).take payloadCap

/-- `CHECKSUM` = `F[34]` (R11). -/
def checksumByte (f : Frame) : Byte := memRead f offChecksum

/-- `END` = `F[35]` (R11). -/
def endByte (f : Frame) : Byte := memRead f offEnd

/-- The frame whose wire bytes are `w`, positionally (R63), when there are exactly 36 of them. -/
def frameOfWire (w : List Byte) (h : w.length = 36) : Frame := ⟨w.toArray, by simpa using h⟩

/-- The wire bytes of a frame, in ascending index order (R21, R30): always 36. -/
def wireBytes (f : Frame) : List Byte := f.toList

/-- Give the host one response (R35); nothing else changes. -/
def State.reply (s : State) (r : Response) : State := { s with outbox := s.outbox ++ [r] }

/-- `respond(status, data)` ends the command (R86). -/
def State.respond (s : State) (status : Status) (data : List Byte) : StepOutcome :=
  .next (s.reply ⟨status, data⟩)

/-- `refuse(status)` is `respond(status, [])` from the state the command found: "A refused command changes
nothing" (R69). -/
def State.refuse (s : State) (status : Status) : StepOutcome := s.respond status []

/-- Write the whole frame register; `PRESENT` keeps its value (R60). -/
def State.setFrame (s : State) (f : Frame) : State := { s with frame := f }

/-- Take one draw from the random source: the next draw is another value (R17, R59). -/
def State.countDraw (s : State) : State := { s with draws := s.draws + 1 }

end Sys2Proof.Machine
end

