-- ==== Sys2Proof/Machine/Flags.lean ====
section
/-! DEFINITION. The block's one flag, `PRESENT` (R13), and the status byte (R36). There is no condition code,
carry or overflow flag (R13, R41). -/

namespace Sys2Proof.Machine

/-- `PRESENT <- 1` with a whole new frame: what ENC and a 36-byte RXW do (R13, R46, R63). -/
def State.loadFrame (s : State) (f : Frame) : State := { s with frame := f, present := true }

/-- A reset event: `PRESENT <- 0`, and `F` is any 36 bytes (R75, R19): the next free value (log 4). -/
def State.applyReset (s : State) : State :=
  { s with frame := Config.resetFrame s.resets, present := false, resets := s.resets + 1 }

/-- Run `k` on the current frame, or refuse with `ERR_NO_FRAME` while `PRESENT` = 0 (R13, R68). -/
def State.withFrame (s : State) (k : Frame → StepOutcome) : StepOutcome :=
  if s.present then k s.frame else s.refuse .errNoFrame

/-- The status byte (R36). -/
def Status.code (st : Status) : Byte :=
  match st with
  | .valid => 0x00
  | .badStart => 0x01
  | .badEnd => 0x02
  | .badLength => 0x03
  | .badChecksum => 0x04
  | .done => 0x10
  | .errIllegal => 0x80
  | .errNoFrame => 0x81
  | .errFraming => 0x82

/-- "Bit 7 is the refusal bit" (R36). -/
def Status.isRefusal (st : Status) : Bool := st.code.msb

end Sys2Proof.Machine
end

