-- ==== Sys2Proof/Machine/Checksum.lean ====
section
/-! DEFINITION. The checksum function and CSUM (40_checksum.md). -/

namespace Sys2Proof.Machine

/-- How many payload bytes are summed: `n <- min(LENGTH, 32)` (R40, R43). -/
def summedCount (f : Frame) : Nat := min (lengthByte f).toNat payloadCap

/-- The exact sum of R40, over natural numbers: the bytes the frame holds, not the constants. -/
def checksumTotal (f : Frame) : Nat :=
  (startByte f).toNat + (lengthByte f).toNat
    + (((payload f).take (summedCount f)).map BitVec.toNat).sum + (endByte f).toNat

/-- `Csum(F)` (R40): the exact sum, reduced once. -/
def checksum (f : Frame) : Byte := BitVec.ofNat 8 (checksumTotal f % csumMod)

/-- CSUM (R44): answer the checksum of the current frame, changing nothing. -/
def execCsum (s : State) : StepOutcome :=
  s.withFrame fun f => s.respond .done [checksum f]

end Sys2Proof.Machine
end

