-- ==== Sys2Proof/Machine/Operands.lean ====
section
/-! DEFINITION. The operand forms (R34): how ENC takes its message, how RXW takes its wire bytes, how CORR takes
its draw. -/

namespace Sys2Proof.Machine

/-- The message bytes ENC uses: "the first min(n, 32) bytes"; the rest is dropped (R34, R47). -/
def messageBytes (m : List Byte) : List Byte := m.take payloadCap

/-- `L <- min(|M|, 32)` as the byte written to `LENGTH` (R46). -/
def messageLength (m : List Byte) : Byte := BitVec.ofNat 8 (min m.length payloadCap)

/-- The payload field of a message: its bytes, then zero padding up to 32 (R46, R48). -/
def paddedPayload (m : List Byte) : List Byte :=
  messageBytes m ++ List.replicate (payloadCap - min m.length payloadCap) 0x00

/-- The frame of an RXW operand, `none` when its size is not `FRAME_BYTES` (R34, R63, R64). -/
def wireOperand (w : List Byte) : Option Frame :=
  if h : w.length = 36 then some (frameOfWire w h) else none

/-- The numbering of the draw: 0 checksum, 1 start byte, 2 end byte (R59). -/
def kindOfDraw (d : Fin 3) : CorruptKind :=
  match d with
  | 0 => .checksum
  | 1 => .startByte
  | 2 => .endByte

end Sys2Proof.Machine
end

