-- ==== Sys2Proof/Machine/Construct.lean ====
section
/-! DEFINITION. ENC, the frame constructor (41_encode.md). -/

namespace Sys2Proof.Machine

/-- The padded payload fills its field exactly (R18, R48). -/
theorem length_paddedPayload (m : List Byte) : (paddedPayload m).length = payloadCap := by
  simp [paddedPayload, messageBytes, payloadCap]; omega

/-- The fields ENC writes before `CHECKSUM`, which still holds 0 and is not an input of `Csum` (R40, R46). -/
def unsummedFrame (m : List Byte) : Frame :=
  frameOfWire (stx :: messageLength m :: (paddedPayload m ++ [0x00, etx]))
    (by simp [length_paddedPayload, payloadCap])

/-- `Encode(M)` (R46): the other fields, then `CHECKSUM <- Csum(F)` over them. -/
def encodeFrame (m : List Byte) : Frame :=
  memWrite (unsummedFrame m) offChecksum (checksum (unsummedFrame m))

/-- ENC (R46): make `Encode(M)` the current frame. It reads no state and is never refused. -/
def execEnc (message : List Byte) (s : State) : StepOutcome :=
  (s.loadFrame (encodeFrame message)).respond .done []

end Sys2Proof.Machine
end

