-- ==== Sys2Proof/Machine/Corrupt.lean ====
section
/-! DEFINITION. CORC, CORS, CORE and CORR (43_corrupt.md). -/

namespace Sys2Proof.Machine

/-- The one byte of `F` a corruption writes (R56, R57, R58). -/
def corruptIndex (k : CorruptKind) : Fin 36 :=
  match k with
  | .checksum => ⟨offChecksum, by decide⟩
  | .startByte => ⟨offStart, by decide⟩
  | .endByte => ⟨offEnd, by decide⟩

/-- The value it writes there: `(CHECKSUM + 1) mod 256`, carry discarded (R41, R56), or 0xFF (R57, R58). -/
def corruptValue (k : CorruptKind) (f : Frame) : Byte :=
  match k with
  | .checksum => checksumByte f + 1
  | .startByte => badSentinel
  | .endByte => badSentinel

/-- `corrupt(frame, field)`: "Mutation is in place; no other fields change" (R60). -/
def corruptFrame (k : CorruptKind) (f : Frame) : Frame :=
  memWrite f (corruptIndex k) (corruptValue k f) (corruptIndex k).isLt

/-- What the three commands with a given kind share (R60): corrupt the current frame and answer `DONE`. -/
def corruptAs (k : CorruptKind) (s : State) : StepOutcome :=
  s.withFrame fun f => (s.setFrame (corruptFrame k f)).respond .done []

/-- CORC (R56). -/
def execCorc (s : State) : StepOutcome := corruptAs .checksum s

/-- CORS (R57). -/
def execCors (s : State) : StepOutcome := corruptAs .startByte s

/-- CORE (R58). -/
def execCore (s : State) : StepOutcome := corruptAs .endByte s

/-- "CORR, with draw d" (R59), for any of the three draws. A refused CORR takes no draw (R69). -/
def corruptDrawn (d : Fin 3) (s : State) : StepOutcome :=
  s.withFrame fun f => ((s.setFrame (corruptFrame (kindOfDraw d) f)).countDraw).respond .done []

/-- CORR (R59): the draw is the next free value (log 5). -/
def execCorr (s : State) : StepOutcome := corruptDrawn (Config.freeDraw s.draws) s

end Sys2Proof.Machine
end

