-- ==== Sys2Proof/Machine/Validate.lean ====
section
/-! DEFINITION. VAL, the frame validator (42_validate.md). -/

namespace Sys2Proof.Machine

/-- `Valid(F)` (R51): the four checks in order, the first that fails reported. For a checksum mismatch data
byte 0 is the recomputed value and data byte 1 the stored one (R54). -/
def verdict (f : Frame) : Response :=
  if startByte f ≠ stx then ⟨.badStart, []⟩
  else if endByte f ≠ etx then ⟨.badEnd, []⟩
  else if payloadCap < (lengthByte f).toNat then ⟨.badLength, []⟩
  else if checksum f ≠ checksumByte f then ⟨.badChecksum, [checksum f, checksumByte f]⟩
  else ⟨.valid, []⟩

/-- VAL (R51, R52): answer the verdict on the current frame, changing nothing. -/
def execVal (s : State) : StepOutcome :=
  s.withFrame fun f => s.respond (verdict f).status (verdict f).data

end Sys2Proof.Machine
end

