-- ==== Sys2Proof/Machine/Wire.lean ====
section
/-! DEFINITION. TXW and RXW, the wire commands (44_wire.md). -/

namespace Sys2Proof.Machine

/-- TXW (R62): answer the 36 bytes of the current frame in wire order, valid or not, changing nothing. -/
def execTxw (s : State) : StepOutcome :=
  s.withFrame fun f => s.respond .done (wireBytes f)

/-- RXW (R63): make the 36 wire bytes the current frame without judging them; any other size is refused
whole (R64). It needs no frame. -/
def execRxw (wire : List Byte) (s : State) : StepOutcome :=
  match wireOperand wire with
  | some f => (s.loadFrame f).respond .done []
  | none => s.refuse .errFraming

end Sys2Proof.Machine
end

