-- ==== Sys2Proof/Machine/Dispatch.lean ====
section
/-! DEFINITION. One arm per command (R33). -/

namespace Sys2Proof.Machine

/-- The meaning of a decoded command. -/
def exec (i : Instr) (s : State) : Host.Outcome State Fault Refusal :=
  match i with
  | .enc message => Sys2Proof.Machine.execEnc message s
  | .val => Sys2Proof.Machine.execVal s
  | .corc => Sys2Proof.Machine.execCorc s
  | .cors => Sys2Proof.Machine.execCors s
  | .core => Sys2Proof.Machine.execCore s
  | .corr => Sys2Proof.Machine.execCorr s
  | .txw => Sys2Proof.Machine.execTxw s
  | .rxw wire => Sys2Proof.Machine.execRxw wire s
  | .csum => Sys2Proof.Machine.execCsum s

end Sys2Proof.Machine
end

