-- ==== Sys2Proof/Machine/Transaction.lean ====
section
/-! DEFINITION. One transaction: what the block does with one event of the host (R6, R26, R75). -/

namespace Sys2Proof.Machine

/-- A packet arrives whole. It is decoded first, so an undecodable packet is `ERR_ILLEGAL` whatever else holds
(R70), and changes nothing (R37); the empty sequence is no packet: no response (R38; log 8). -/
def runPacket (c : List Byte) (s : State) : StepOutcome :=
  match decode c with
  | .ok i => exec i s
  | .reject .emptyPacket => .next s
  | .reject (.reservedOpcode _) => s.refuse .errIllegal
  | .reject (.operandOnOp _) => s.refuse .errIllegal

/-- One event, taken off the inbox before. -/
def takeEvent (e : HostEvent) (s : State) : StepOutcome :=
  match e with
  | .packet c => runPacket c s
  | .reset => .next s.applyReset

/-- The host has sent nothing: "Nothing happens in the block while no command is executing" (R71; log 7). -/
def idle (s : State) : StepOutcome := .next s

/-- What is left to take once the head event has been taken off. -/
def State.withInbox (s : State) (rest : List HostEvent) : State := { s with inbox := rest }

/-- The host sends a packet that the block takes before all others it still has to take (log 9). -/
def State.placePacket (s : State) (c : List Byte) : State := { s with inbox := .packet c :: s.inbox }

end Sys2Proof.Machine
end

