-- ==== Sys2Proof/Machine/Step.lean ====
section
/-! DEFINITION. One step: the block takes the host's next event and executes it completely (R6, R26). -/

namespace Sys2Proof.Machine

/-- "The next command is taken only after the response of the previous one" (R6), in the order the host sent
them (R26); with nothing sent the block idles. -/
def step (s : State) : Host.Outcome State Fault Refusal :=
  match s.inbox with
  | [] => idle s
  | e :: rest => takeEvent e (s.withInbox rest)

/-- `s` with the packet of an opcode-table word as the next one the block takes (log 9). -/
def State.withFetchWord (s : State) (nbits w : Nat) : State := s.placePacket (packetOfWord nbits w)

end Sys2Proof.Machine
end

