-- ==== Sys2Proof/Machine/CommandLine.lean ====
section
/-! DEFINITION. The line form of commands (R39): what one line says, the packet it stands for, and how a line of
text is read. It is the host's; no step uses it. Blank-space and quoting details are log 13. -/

namespace Sys2Proof.Machine

/-- One command as a test writes it (R39). `cor` is the pseudo-instruction "with no encoding of its own"; the
draw a test assumes for CORR "changes nothing in the packet". -/
inductive CommandLine where
  | encText (text : List Char)
  | encBytes (bytes : List Byte)
  | val
  | corc
  | cors
  | core
  | corr (assumed : Option (Fin 3))
  | cor (kind : Option CorruptKind)
  | txw
  | rxw (bytes : List Byte)
  | csum
  | raw (bytes : List Byte)
  deriving DecidableEq, Repr

/-- What reading a line of text gives. -/
inductive ParsedLine where
  /-- Only blanks or a comment. -/
  | nothing
  | command (l : CommandLine)
  /-- Not a line of R39. -/
  | malformed
  deriving DecidableEq, Repr

/-- The ASCII code of a character, `none` outside ASCII: the string form "is defined only for ASCII text" (R39). -/
def asciiByte (c : Char) : Option Byte := if c.toNat < 128 then some (BitVec.ofNat 8 c.toNat) else none

/-- The bytes of an ASCII text, one per character (R39). -/
def asciiBytes (text : List Char) : Option (List Byte) := text.mapM asciiByte

/-- The packet bytes of a line (R39); `none` for a text outside ASCII and for a RAW line with no byte. -/
def linePacket (l : CommandLine) : Option (List Byte) :=
  match l with
  | .encText text => (asciiBytes text).map fun m => encode (.enc m)
  | .encBytes m => some (encode (.enc m))
  | .val => some (encode .val)
  | .corc => some (encode .corc)
  | .cors => some (encode .cors)
  | .core => some (encode .core)
  | .corr _ => some (encode .corr)
  | .cor (some .checksum) => some (encode .corc)
  | .cor (some .startByte) => some (encode .cors)
  | .cor (some .endByte) => some (encode .core)
  | .cor none => some (encode .corr)
  | .txw => some (encode .txw)
  | .rxw w => some (encode (.rxw w))
  | .csum => some (encode .csum)
  | .raw [] => none
  | .raw (b :: bs) => some (b :: bs)

/-- A piece of a line: a word, or a text between double quotes. -/
inductive Token where
  | word (cs : List Char)
  | text (cs : List Char)
  deriving DecidableEq, Repr

/-- Where the scan of a line stands; a word or a text keeps its characters newest first. -/
inductive ScanMode where
  | between
  | inWord (acc : List Char)
  | inText (acc : List Char)
  deriving DecidableEq, Repr

/-- The double quote. -/
def quoteChar : Char := Char.ofNat 34

/-- Cut a line into tokens; "A comment runs from `;` to the end of the line" (R39); `none` for an unclosed text. -/
def scanLine (mode : ScanMode) (cs : List Char) : Option (List Token) :=
  match cs, mode with
  | [], .between => some []
  | [], .inWord acc => some [.word acc.reverse]
  | [], .inText _ => none
  | c :: rest, .between =>
    if c = ';' then some []
    else if c = ' ' ∨ c = '\t' then scanLine .between rest
    else if c = quoteChar then scanLine (.inText []) rest
    else scanLine (.inWord [c]) rest
  | c :: rest, .inWord acc =>
    if c = ';' then some [.word acc.reverse]
    else if c = ' ' ∨ c = '\t' then (scanLine .between rest).map fun ts => .word acc.reverse :: ts
    else scanLine (.inWord (c :: acc)) rest
  | c :: rest, .inText acc =>
    if c = quoteChar then (scanLine .between rest).map fun ts => .text acc.reverse :: ts
    else scanLine (.inText (c :: acc)) rest

/-- The value of a hexadecimal digit, either case. -/
def hexValue (c : Char) : Option Nat :=
  if '0' ≤ c ∧ c ≤ '9' then some (c.toNat - 48)
  else if 'A' ≤ c ∧ c ≤ 'F' then some (c.toNat - 55)
  else if 'a' ≤ c ∧ c ≤ 'f' then some (c.toNat - 87)
  else none

/-- A byte written as exactly two hexadecimal digits (R39). -/
def byteToken (t : Token) : Option Byte :=
  match t with
  | .word [hi, lo] =>
    match hexValue hi, hexValue lo with
    | some h, some l => some (BitVec.ofNat 8 (16 * h + l))
    | _, _ => none
  | _ => none

/-- A list of bytes, each a token. -/
def byteTokens (ts : List Token) : Option (List Byte) := ts.mapM byteToken

/-- The assumed draw of a CORR line: an opening brace, `d=k`, a closing brace (R39). -/
def drawToken (cs : List Char) : Option (Fin 3) :=
  if cs = [Char.ofNat 123, 'd', '=', '0', Char.ofNat 125] then some 0
  else if cs = [Char.ofNat 123, 'd', '=', '1', Char.ofNat 125] then some 1
  else if cs = [Char.ofNat 123, 'd', '=', '2', Char.ofNat 125] then some 2
  else none

/-- The kind named after `COR` (R39). -/
def kindToken (cs : List Char) : Option CorruptKind :=
  if cs = "checksum".toList then some .checksum
  else if cs = "start_byte".toList then some .startByte
  else if cs = "end_byte".toList then some .endByte
  else none

/-- The command written without arguments, by its mnemonic (R39). -/
def bareCommand (name : List Char) : Option CommandLine :=
  if name = "ENC".toList then some (.encBytes [])
  else if name = "VAL".toList then some .val
  else if name = "CORC".toList then some .corc
  else if name = "CORS".toList then some .cors
  else if name = "CORE".toList then some .core
  else if name = "CORR".toList then some (.corr none)
  else if name = "COR".toList then some (.cor none)
  else if name = "TXW".toList then some .txw
  else if name = "RXW".toList then some (.rxw [])
  else if name = "CSUM".toList then some .csum
  else none

/-- The command written with arguments (R39). -/
def commandWithArguments (name : List Char) (args : List Token) : Option CommandLine :=
  if name = "ENC".toList then
    match args with
    | [.text t] => some (.encText t)
    | _ => (byteTokens args).map .encBytes
  else if name = "RXW".toList then (byteTokens args).map .rxw
  else if name = "RAW".toList then (byteTokens args).map .raw
  else if name = "CORR".toList then
    match args with
    | [.word w] => (drawToken w).map fun d => .corr (some d)
    | _ => none
  else if name = "COR".toList then
    match args with
    | [.word w] => (kindToken w).map fun k => .cor (some k)
    | _ => none
  else none

/-- One line's tokens as a command. -/
def tokensCommand (ts : List Token) : Option CommandLine :=
  match ts with
  | [] => none
  | .text _ :: _ => none
  | [.word name] => bareCommand name
  | .word name :: args => commandWithArguments name args

/-- Read one line of text (R39). -/
def parseLine (line : String) : ParsedLine :=
  match scanLine .between line.toList with
  | none => .malformed
  | some [] => .nothing
  | some ts =>
    match tokensCommand ts with
    | some l => .command l
    | none => .malformed

/-- The packet of a line of text: "one command per line" (R39). -/
def assemble (line : String) : Option (List Byte) :=
  match parseLine line with
  | .command l => linePacket l
  | .nothing => none
  | .malformed => none

end Sys2Proof.Machine
end

