-- ==== Sys2Proof/Machine/HostText.lean ====
section
/-! DEFINITION. The texts the host shows: the reason of a verdict (R53) and the written form of a response (R39).
They are functions of a response, outside the block; no step uses them. -/

namespace Sys2Proof.Machine

/-- One uppercase hexadecimal digit, n < 16. -/
def hexDigit (n : Nat) : Char := if n < 10 then Char.ofNat (48 + n) else Char.ofNat (55 + n)

/-- Two uppercase hexadecimal digits, "never `1a`, never `0x1A`, never `26`" (R53). -/
def hexPair (b : Byte) : List Char := [hexDigit (b.toNat / 16), hexDigit (b.toNat % 16)]

/-- `Result.valid` (R51, R53): `none` for a status that is no verdict. -/
def verdictValid (st : Status) : Option Bool :=
  match st with
  | .valid => some true
  | .badStart | .badEnd | .badLength | .badChecksum => some false
  | .done | .errIllegal | .errNoFrame | .errFraming => none

/-- The literal reason texts of R53. The wording for a checksum mismatch is not in the source: `none`
(log 14); its two values are `reasonValues`. -/
def reasonText (st : Status) : Option String :=
  match st with
  | .valid => some "valid packet"
  | .badStart => some "invalid start byte"
  | .badEnd => some "invalid end byte"
  | .badLength => some "payload length exceeds maximum"
  | .badChecksum | .done | .errIllegal | .errNoFrame | .errFraming => none

/-- The expected and actual values of a checksum mismatch "in two-hex-digit uppercase form" (R53, R54). -/
def reasonValues (r : Response) : Option (List Char × List Char) :=
  match r.status, r.data with
  | .badChecksum, [expected, actual] => some (hexPair expected, hexPair actual)
  | _, _ => none

/-- The name of a status (R36). -/
def statusName (st : Status) : List Char :=
  match st with
  | .valid => "VALID".toList
  | .badStart => "BAD_START".toList
  | .badEnd => "BAD_END".toList
  | .badLength => "BAD_LENGTH".toList
  | .badChecksum => "BAD_CHECKSUM".toList
  | .done => "DONE".toList
  | .errIllegal => "ERR_ILLEGAL".toList
  | .errNoFrame => "ERR_NO_FRAME".toList
  | .errFraming => "ERR_FRAMING".toList

/-- Data bytes as hex pairs with one space between. -/
def hexBytes (bs : List Byte) : List Char :=
  match bs with
  | [] => []
  | [b] => hexPair b
  | b :: rest => hexPair b ++ ' ' :: hexBytes rest

/-- `-> STATUS` or `-> STATUS [b0 b1 ...]` (R39). -/
def responseLine (r : Response) : List Char :=
  match r.data with
  | [] => "-> ".toList ++ statusName r.status
  | bs => "-> ".toList ++ statusName r.status ++ " [".toList ++ hexBytes bs ++ "]".toList

end Sys2Proof.Machine
end

