-- ==== Sys2Proof/Safety.lean ====
section
/-! DEFINITION. What counts as a safe run and a good frame, in the terms the claims use. -/

namespace Sys2Proof

open Sys2Proof.Machine

/-- The step answers a next state: "the block is ready for the next command afterwards" (R67). -/
def Runs (s : State) : Prop := ∃ t, step s = .next t

/-- The four conditions of validity (R11, R51). -/
def ValidFrame (f : Frame) : Prop :=
  startByte f = 0x02 ∧ endByte f = 0x03 ∧ (lengthByte f).toNat ≤ 32 ∧ checksumByte f = checksum f

/-- The five conditions that hold "Immediately after an ENC" (R18): validity, and zero padding. -/
def EncodedFrame (f : Frame) : Prop :=
  ValidFrame f ∧ ∀ i : Fin 32, (lengthByte f).toNat ≤ i.val → f[2 + i.val] = 0x00

/-- The command reads the frame, so it needs one (R13): all but ENC and RXW. -/
def needsFrame (i : Instr) : Bool :=
  match i with
  | .enc _ | .rxw _ => false
  | .val | .corc | .cors | .core | .corr | .txw | .csum => true

/-- The rows of R35 that are not refusals, by command. -/
def completes (i : Instr) (r : Response) : Prop :=
  match i with
  | .enc _ | .corc | .cors | .core | .corr | .rxw _ => r.status = .done ∧ r.data = []
  | .csum => r.status = .done ∧ r.data.length = 1
  | .txw => r.status = .done ∧ r.data.length = 36
  | .val =>
    (r.status = .badChecksum ∧ ∃ expected actual, expected ≠ actual ∧ r.data = [expected, actual])
      ∨ ((r.status = .valid ∨ r.status = .badStart ∨ r.status = .badEnd ∨ r.status = .badLength)
          ∧ r.data = [])

/-- The table of R35 with the "raised by" column of R68: what a decoded command may answer. -/
def mayAnswer (i : Instr) (r : Response) : Prop :=
  completes i r
    ∨ (needsFrame i = true ∧ r = ⟨.errNoFrame, []⟩)
    ∨ (∃ w, i = .rxw w ∧ w.length ≠ 36 ∧ r = ⟨.errFraming, []⟩)

/-- A response some packet may get (R35): "a data byte sequence whose length is fixed by the status and the
command", and for a checksum mismatch two bytes that "always differ" (R54). -/
def LegalResponse (r : Response) : Prop :=
  r = ⟨.errIllegal, []⟩ ∨ ∃ i, mayAnswer i r

/-- The invariant of every step: the host has only been given legal responses. -/
def OutboxLegal (s : State) : Prop := ∀ r ∈ s.outbox, LegalResponse r

/-- The number of command packets in a list of host events: the empty sequence is none (R31, R38). -/
def packetCount (es : List HostEvent) : Nat :=
  (es.filter fun e => match e with
    | .packet (_ :: _) => true
    | .packet [] => false
    | .reset => false).length

end Sys2Proof
end

