-- ==== Sys2Proof/Certificates/Slice0/Obligations.lean ====
section
/-! DEFINITION. The statements for the provers, from the spec's numbered rules. Frame bytes are named by their
index, as R25 lays them out: 0 `START`, 1 `LENGTH`, 2 to 33 `PAYLOAD`, 34 `CHECKSUM`, 35 `END`.
`s.reply r` is `s` with `r` added at the end of `outbox` and nothing else changed. -/

open Sys2Proof Sys2Proof.Machine

/-! ### The step and the packet -/

/-- R6, R38: a packet that decodes is executed as what it decodes to, with the packet taken off the inbox. -/
def Obligations.StepRunsDecodedPacket : Prop :=
  ∀ (s : State) (c : List Byte) (i : Instr) (rest : List HostEvent),
    s.inbox = .packet c :: rest → decode c = .ok i → step s = exec i { s with inbox := rest }

/-- The same of an opcode-table word placed by `withFetchWord` (log 9, the model's choice). -/
def Obligations.FetchWordRunsDecodedCommand : Prop :=
  ∀ (s : State) (nbits w : Nat) (i : Instr),
    decodeTableWord nbits w = some i → step (s.withFetchWord nbits w) = exec i s

/-- R33: of the 256 one-byte packets exactly nine decode, each to the command of its row. -/
def Obligations.OpcodeMapIsExact : Prop :=
  ((List.range 256).filterMap fun n =>
      match decode [BitVec.ofNat 8 n] with
      | .ok i => some (n, i)
      | .reject _ => none)
    = [(0x10, .enc []), (0x20, .val), (0x30, .corc), (0x31, .cors), (0x32, .core), (0x33, .corr),
       (0x40, .txw), (0x50, .rxw []), (0x60, .csum)]

/-- R32: major 3 takes minors 0 to 3 and the minor selects the corruption; every other assigned major needs
minor 0. -/
def Obligations.OpcodeFieldsSelectCommand : Prop :=
  ∀ op : Byte,
    ((∃ i, decode [op] = .ok i) ↔
      (major op = 3 ∧ (minor op).toNat ≤ 3) ∨ (minor op = 0 ∧ major op ∈ [1, 2, 4, 5, 6]))
    ∧ (major op = 3 → minor op = 0 → decode [op] = .ok .corc)
    ∧ (major op = 3 → minor op = 1 → decode [op] = .ok .cors)
    ∧ (major op = 3 → minor op = 2 → decode [op] = .ok .core)
    ∧ (major op = 3 → minor op = 3 → decode [op] = .ok .corr)
    ∧ (minor op = 0 → major op = 1 → decode [op] = .ok (.enc []))
    ∧ (minor op = 0 → major op = 2 → decode [op] = .ok .val)
    ∧ (minor op = 0 → major op = 4 → decode [op] = .ok .txw)
    ∧ (minor op = 0 → major op = 5 → decode [op] = .ok (.rxw []))
    ∧ (minor op = 0 → major op = 6 → decode [op] = .ok .csum)

/-- Words written out bit by bit from R31 to R34, one of every family, decode to what they stand for. -/
def Obligations.SpecWordsDecode : Prop :=
  decode [0b00010000#8, 0b01001000#8, 0b01101001#8] = .ok (.enc [0x48, 0x69])
    ∧ decode [0b00100000#8] = .ok .val
    ∧ decode [0b00110000#8] = .ok .corc
    ∧ decode [0b00110011#8] = .ok .corr
    ∧ decode [0b01000000#8] = .ok .txw
    ∧ decode [0b01010000#8, 0b11111111#8] = .ok (.rxw [0xFF])
    ∧ decode [0b01100000#8] = .ok .csum

/-- R31, R33, R34, R38: the decoder accepts exactly the encodings, and reads each back whole, for every
operand. -/
def Obligations.DecodeIffEncoded : Prop :=
  ∀ (c : List Byte) (i : Instr), decode c = .ok i ↔ c = encode i

/-- R31, R33, R34: a packet decodes exactly when it is well formed. -/
def Obligations.WellFormedPacketsDecode : Prop :=
  ∀ c : List Byte, (∃ i, decode c = .ok i) ↔ Packet.wellFormed c = true

/-- R37: a packet with a reserved opcode is refused with no change, whatever its operand and `PRESENT`. -/
def Obligations.ReservedOpcodeIsRefused : Prop :=
  ∀ (s : State) (op : Byte) (v : List Byte) (rest : List HostEvent),
    s.inbox = .packet (op :: v) :: rest →
    op ∉ ([0x10, 0x20, 0x30, 0x31, 0x32, 0x33, 0x40, 0x50, 0x60] : List Byte) →
    step s = .next (({ s with inbox := rest } : State).reply ⟨.errIllegal, []⟩)

/-- R34, third item: operand bytes after one of the seven `OP` opcodes are refused with no change, whatever
they are and whatever `PRESENT` is. -/
def Obligations.OperandOnOpCommandIsRefused : Prop :=
  ∀ (s : State) (op : Byte) (v : List Byte) (rest : List HostEvent),
    s.inbox = .packet (op :: v) :: rest →
    op ∈ ([0x20, 0x30, 0x31, 0x32, 0x33, 0x40, 0x60] : List Byte) → v ≠ [] →
    step s = .next (({ s with inbox := rest } : State).reply ⟨.errIllegal, []⟩)

/-- R38, last item of its prose: the empty sequence gets no response and changes nothing of the block. That
the model's step takes it off the inbox is log 8, the model's choice. -/
def Obligations.EmptyPacketGetsNoResponse : Prop :=
  ∀ (s : State) (rest : List HostEvent),
    s.inbox = .packet [] :: rest → step s = .next { s with inbox := rest }

/-- R71, R77: with nothing sent, nothing changes. That the model's step then answers the same state is log 7,
the model's choice. -/
def Obligations.IdleStepChangesNothing : Prop :=
  ∀ s : State, s.inbox = [] → step s = .next s

/-- R39: each row of its table, and the pseudo-instructions, give the packet the row lists. -/
def Obligations.WrittenLinesGiveTheirPackets : Prop :=
  assemble "ENC \"Hi\"" = some [0x10, 0x48, 0x69]
    ∧ assemble "ENC 48 69" = some [0x10, 0x48, 0x69]
    ∧ assemble "ENC" = some [0x10]
    ∧ assemble "VAL" = some [0x20]
    ∧ assemble "CORC" = some [0x30]
    ∧ assemble "CORS" = some [0x31]
    ∧ assemble "CORE" = some [0x32]
    ∧ assemble "CORR" = some [0x33]
    ∧ (∀ d : Fin 3, linePacket (.corr (some d)) = some [0x33])
    ∧ assemble "TXW" = some [0x40]
    ∧ assemble "RXW 02 FF" = some [0x50, 0x02, 0xFF]
    ∧ assemble "CSUM" = some [0x60]
    ∧ assemble "RAW 11 48 69" = some [0x11, 0x48, 0x69]
    ∧ assemble "COR checksum" = some [0x30]
    ∧ assemble "COR start_byte" = some [0x31]
    ∧ assemble "COR end_byte" = some [0x32]
    ∧ assemble "COR" = some [0x33]
    ∧ assemble "VAL ; judge it" = some [0x20]

/-! ### ENC -/

/-- R46: ENC answers a next state whatever the state and the message, with all 36 bytes of `F` as the
pseudocode writes them and `CHECKSUM` in closed form. -/
def Obligations.EncBuildsFrame : Prop :=
  ∀ (s : State) (m : List Byte),
    decode (0x10 :: m) = .ok (.enc m)
    ∧ ∃ t, exec (.enc m) s = .next t
      ∧ t.present = true
      ∧ t.frame[0] = 0x02
      ∧ t.frame[1] = BitVec.ofNat 8 (min m.length 32)
      ∧ (∀ (i : Fin 32) (h : i.val < m.length), t.frame[2 + i.val] = m[i.val])
      ∧ (∀ i : Fin 32, m.length ≤ i.val → t.frame[2 + i.val] = 0x00)
      ∧ t.frame[34] = BitVec.ofNat 8 ((5 + min m.length 32 + ((m.take 32).map BitVec.toNat).sum) % 256)
      ∧ t.frame[34] = checksum t.frame
      ∧ t.frame[35] = 0x03
      ∧ t.outbox = s.outbox ++ [⟨.done, []⟩]
      ∧ t.inbox = s.inbox ∧ t.draws = s.draws ∧ t.resets = s.resets

/-- R47: bytes after the 32nd have no influence at all, and the response is that of any ENC. -/
def Obligations.EncTruncatesSilently : Prop :=
  ∀ (s : State) (m : List Byte), 32 < m.length →
    exec (.enc m) s = exec (.enc (m.take 32)) s
    ∧ ∃ t, exec (.enc m) s = .next t
      ∧ t.frame[1] = 0x20
      ∧ (∀ i : Fin 32, m[i.val]? = some t.frame[2 + i.val])
      ∧ t.outbox = s.outbox ++ [⟨.done, []⟩]

/-- R48: after ENC every payload byte at an index of `LENGTH` or more is zero, whatever `F` held; message bytes
that are zero are counted, so three of them and none give frames that differ in `LENGTH` and `CHECKSUM`. -/
def Obligations.EncPadsWithZeros : Prop :=
  (∀ (s t : State) (m : List Byte), exec (.enc m) s = .next t →
    ∀ i : Fin 32, t.frame[1].toNat ≤ i.val → t.frame[2 + i.val] = 0x00)
  ∧ ∀ s : State, ∃ t u, exec (.enc [0x00, 0x00, 0x00]) s = .next t ∧ exec (.enc []) s = .next u
      ∧ t.frame[1] = 3 ∧ t.frame[34] = 0x08 ∧ u.frame[1] = 0 ∧ u.frame[34] = 0x05
      ∧ ∀ i : Fin 32, t.frame[2 + i.val] = 0x00 ∧ u.frame[2 + i.val] = 0x00

/-- `41_encode.md` section 4 (R49, for long messages the spec's own "[derived: from rule R46, rule R47 and rule
R51]"): for every message, of any length, VAL after ENC answers `VALID`, and TXW exactly 36 data bytes. -/
def Obligations.EncThenValIsValid : Prop :=
  ∀ (s : State) (m : List Byte), ∃ t d, exec (.enc m) s = .next t
    ∧ exec .val t = .next (t.reply ⟨.valid, []⟩)
    ∧ exec .txw t = .next (t.reply ⟨.done, d⟩) ∧ d.length = 36

/-- R18: the five conditions hold right after an ENC, and every step keeps them until a corruption command, an
RXW or a reset. -/
def Obligations.EncodedFramePersists : Prop :=
  (∀ (s t : State) (m : List Byte), exec (.enc m) s = .next t → t.present = true ∧ EncodedFrame t.frame)
  ∧ ∀ s t : State, s.present = true → EncodedFrame s.frame → step s = .next t →
      s.inbox.head? ≠ some .reset →
      (∀ (c : List Byte) (i : Instr), s.inbox.head? = some (.packet c) → decode c = .ok i →
        i ∉ [.corc, .cors, .core, .corr] ∧ ∀ w, i ≠ .rxw w) →
      t.present = true ∧ EncodedFrame t.frame

/-! ### The checksum and CSUM -/

/-- R40: `Csum` is the sum over the indices the rule gives, reduced once. -/
def Obligations.ChecksumFormula : Prop :=
  ∀ f : Frame, checksum f = BitVec.ofNat 8
    ((f[0].toNat + f[1].toNat
      + (∑ i ∈ Finset.range (min f[1].toNat 32), (f.toList.getD (2 + i) 0).toNat)
      + f[35].toNat) % 256)

/-- `40_checksum.md` section 2, items 2 and 4, the spec's own "[derived: from rule R40]": an 8-bit accumulator
that drops every carry, adding the summed bytes in any order, computes `Csum`. -/
def Obligations.ChecksumIsCarryDroppingSum : Prop :=
  ∀ (f : Frame) (l : List Byte),
    l.Perm (f.toList.take (2 + min f[1].toNat 32) ++ [f[35]]) →
    checksum f = l.foldl (fun acc b => acc + b) 0

/-- R42: two frames that differ only in padding have the same `Csum`, and the same verdict. -/
def Obligations.PaddingIsNotSummed : Prop :=
  ∀ f g : Frame, f[0] = g[0] → f[1] = g[1] → f[35] = g[35] →
    (∀ i : Fin 32, i.val < f[1].toNat → f[2 + i.val] = g[2 + i.val]) →
    checksum f = checksum g ∧ (f[34] = g[34] → verdict f = verdict g)

/-- R43: when `LENGTH` > 32 all 32 payload bytes are summed and the full `LENGTH` term, and CSUM answers so. -/
def Obligations.LongLengthIsClipped : Prop :=
  ∀ s : State, s.present = true → 32 < s.frame[1].toNat →
    exec .csum s = .next (s.reply ⟨.done, [BitVec.ofNat 8
      ((s.frame[0].toNat + s.frame[1].toNat + (((s.frame.toList.drop 2).take 32).map BitVec.toNat).sum
        + s.frame[35].toNat) % 256)]⟩)

/-- `40_checksum.md` section 4, item 2, the spec's own "[derived: from rule R40 and rule R41]": changing exactly
one summed byte other than `LENGTH` changes `Csum`. -/
def Obligations.OneSummedByteChangeIsSeen : Prop :=
  ∀ (f : Frame) (k : Fin 36) (v : Byte),
    k.val = 0 ∨ k.val = 35 ∨ (2 ≤ k.val ∧ k.val < 34 ∧ k.val < 2 + f[1].toNat) →
    v ≠ f[k.val] → checksum (f.set k.val v) ≠ checksum f

/-- `40_checksum.md` section 4, item 3, the spec's own "[derived: from rule R40 and rule R41]": swapping two
summed payload bytes leaves `Csum` as it was. -/
def Obligations.SwapOfSummedBytesIsNotSeen : Prop :=
  ∀ (f : Frame) (i j : Fin 32), i.val < f[1].toNat → j.val < f[1].toNat →
    checksum ((f.set (2 + i.val) f[2 + j.val]).set (2 + j.val) f[2 + i.val]) = checksum f

/-- R44: CSUM answers `Csum(F)` and changes nothing, is refused without a frame or with an operand, and does not
read `CHECKSUM`. -/
def Obligations.CsumReportsChecksum : Prop :=
  ∀ s : State,
    (s.present = true → exec .csum s = .next (s.reply ⟨.done, [checksum s.frame]⟩))
    ∧ (s.present = false → exec .csum s = .next (s.reply ⟨.errNoFrame, []⟩))
    ∧ (∀ b : Byte, checksum (s.frame.set 34 b) = checksum s.frame)
    ∧ (∀ (v : List Byte) (rest : List HostEvent), s.inbox = .packet (0x60 :: v) :: rest → v ≠ [] →
        step s = .next (({ s with inbox := rest } : State).reply ⟨.errIllegal, []⟩))

/-! ### VAL -/

/-- R51: the four checks in order, the first failing one reported; refusals; nothing changed; `Result.valid` is
true exactly for `VALID` and false for the four others. -/
def Obligations.ValReportsFirstFailingCheck : Prop :=
  (∀ st : Status, (verdictValid st = some true ↔ st = .valid)
    ∧ (verdictValid st = some false ↔ st ∈ [.badStart, .badEnd, .badLength, .badChecksum]))
  ∧ ∀ s : State,
    (s.present = true → exec .val s = .next (s.reply
      (if s.frame[0] ≠ 0x02 then ⟨.badStart, []⟩
       else if s.frame[35] ≠ 0x03 then ⟨.badEnd, []⟩
       else if 32 < s.frame[1].toNat then ⟨.badLength, []⟩
       else if checksum s.frame ≠ s.frame[34] then ⟨.badChecksum, [checksum s.frame, s.frame[34]]⟩
       else ⟨.valid, []⟩)))
    ∧ (s.present = false → exec .val s = .next (s.reply ⟨.errNoFrame, []⟩))
    ∧ (∀ (v : List Byte) (rest : List HostEvent), s.inbox = .packet (0x20 :: v) :: rest → v ≠ [] →
        step s = .next (({ s with inbox := rest } : State).reply ⟨.errIllegal, []⟩))

/-- R51, R11: VAL answers `VALID` exactly when a frame is present and meets the four constraints, the checksum
written out as a sum over `LENGTH` payload bytes. -/
def Obligations.ValidMeansAllFourConstraints : Prop :=
  ∀ s : State, exec .val s = .next (s.reply ⟨.valid, []⟩) ↔
    s.present = true ∧ s.frame[0] = 0x02 ∧ s.frame[35] = 0x03 ∧ s.frame[1].toNat ≤ 32
    ∧ s.frame[34].toNat = (5 + s.frame[1].toNat
        + ∑ i ∈ Finset.range s.frame[1].toNat, (s.frame.toList.getD (2 + i) 0).toNat) % 256

/-- R54: a `BAD_CHECKSUM` response holds the recomputed byte, then the stored one; they differ, and CSUM and TXW
give the same two bytes. -/
def Obligations.BadChecksumHoldsExpectedThenActual : Prop :=
  ∀ (s t : State) (d : List Byte), exec .val s = .next t →
    t.outbox = s.outbox ++ [⟨.badChecksum, d⟩] →
    d = [checksum s.frame, s.frame[34]] ∧ checksum s.frame ≠ s.frame[34]
    ∧ exec .csum s = .next (s.reply ⟨.done, [checksum s.frame]⟩)
    ∧ ∃ w : List Byte, exec .txw s = .next (s.reply ⟨.done, w⟩) ∧ w[34]? = some s.frame[34]

/-- R53: `valid` and the literal reason texts by status, and the two values in uppercase hexadecimal. -/
def Obligations.ReasonTextsByStatus : Prop :=
  verdictValid .valid = some true ∧ reasonText .valid = some "valid packet"
    ∧ verdictValid .badStart = some false ∧ reasonText .badStart = some "invalid start byte"
    ∧ verdictValid .badEnd = some false ∧ reasonText .badEnd = some "invalid end byte"
    ∧ verdictValid .badLength = some false ∧ reasonText .badLength = some "payload length exceeds maximum"
    ∧ verdictValid .badChecksum = some false
    ∧ reasonValues ⟨.badChecksum, [0x1A, 0x1B]⟩ = some (['1', 'A'], ['1', 'B'])

/-! ### The corruption commands -/

/-- R56: CORC adds 1 to `CHECKSUM`, modulo 256, and writes nothing else. -/
def Obligations.CorcAddsOneToChecksum : Prop :=
  ∀ s : State,
    (s.present = true → exec .corc s = .next (({ s with
      frame := s.frame.set 34 (BitVec.ofNat 8 ((s.frame[34].toNat + 1) % 256)) } : State).reply ⟨.done, []⟩))
    ∧ (s.present = false → exec .corc s = .next (s.reply ⟨.errNoFrame, []⟩))
    ∧ (∀ (v : List Byte) (rest : List HostEvent), s.inbox = .packet (0x30 :: v) :: rest → v ≠ [] →
        step s = .next (({ s with inbox := rest } : State).reply ⟨.errIllegal, []⟩))

/-- R57: CORS sets `START` to 0xFF and writes nothing else. -/
def Obligations.CorsSetsStartByte : Prop :=
  ∀ s : State,
    (s.present = true → exec .cors s = .next (({ s with frame := s.frame.set 0 0xFF } : State).reply ⟨.done, []⟩))
    ∧ (s.present = false → exec .cors s = .next (s.reply ⟨.errNoFrame, []⟩))
    ∧ (∀ (v : List Byte) (rest : List HostEvent), s.inbox = .packet (0x31 :: v) :: rest → v ≠ [] →
        step s = .next (({ s with inbox := rest } : State).reply ⟨.errIllegal, []⟩))

/-- R58: CORE sets `END` to 0xFF and writes nothing else. -/
def Obligations.CoreSetsEndByte : Prop :=
  ∀ s : State,
    (s.present = true → exec .core s = .next (({ s with frame := s.frame.set 35 0xFF } : State).reply ⟨.done, []⟩))
    ∧ (s.present = false → exec .core s = .next (s.reply ⟨.errNoFrame, []⟩))
    ∧ (∀ (v : List Byte) (rest : List HostEvent), s.inbox = .packet (0x32 :: v) :: rest → v ≠ [] →
        step s = .next (({ s with inbox := rest } : State).reply ⟨.errIllegal, []⟩))

/-- R59: each of the three draws has its effect, and CORR is one of the three, whichever the free draw is. The
counter of draws is the model's own (log 6). -/
def Obligations.CorrAppliesOneOfThreeKinds : Prop :=
  ∀ s : State,
    (s.present = true →
      corruptDrawn 0 s = .next (({ s with
          frame := s.frame.set 34 (BitVec.ofNat 8 ((s.frame[34].toNat + 1) % 256)),
          draws := s.draws + 1 } : State).reply ⟨.done, []⟩)
      ∧ corruptDrawn 1 s = .next (({ s with
          frame := s.frame.set 0 0xFF, draws := s.draws + 1 } : State).reply ⟨.done, []⟩)
      ∧ corruptDrawn 2 s = .next (({ s with
          frame := s.frame.set 35 0xFF, draws := s.draws + 1 } : State).reply ⟨.done, []⟩))
    ∧ (s.present = true → ∃ d : Fin 3, exec .corr s = .next (({ s with
        frame := if d = 0 then s.frame.set 34 (BitVec.ofNat 8 ((s.frame[34].toNat + 1) % 256))
          else if d = 1 then s.frame.set 0 0xFF else s.frame.set 35 0xFF,
        draws := s.draws + 1 } : State).reply ⟨.done, []⟩))
    ∧ (s.present = false → exec .corr s = .next (s.reply ⟨.errNoFrame, []⟩))
    ∧ (∀ (v : List Byte) (rest : List HostEvent), s.inbox = .packet (0x33 :: v) :: rest → v ≠ [] →
        step s = .next (({ s with inbox := rest } : State).reply ⟨.errIllegal, []⟩))

/-- R60, the frame of the four: the byte at the address the meaning computes, `corruptIndex k`, is the only one
that can change, that address is 34, 0 or 35, and with a frame present the answer is `DONE`. -/
def Obligations.CorruptionWritesOneByteOnly : Prop :=
  corruptIndex .checksum = 34 ∧ corruptIndex .startByte = 0 ∧ corruptIndex .endByte = 35
  ∧ ∀ (s : State) (i : Instr) (k : CorruptKind),
      (i = .corc ∧ k = .checksum) ∨ (i = .cors ∧ k = .startByte) ∨ (i = .core ∧ k = .endByte)
        ∨ (i = .corr ∧ k = kindOfDraw (Config.freeDraw s.draws)) →
      ∃ t r, exec i s = .next t ∧ t.outbox = s.outbox ++ [r]
        ∧ (∀ j : Fin 36, j ≠ corruptIndex k → t.frame[j.val] = s.frame[j.val])
        ∧ t.present = s.present ∧ t.inbox = s.inbox ∧ t.resets = s.resets
        ∧ (i ≠ .corr → t.draws = s.draws)
        ∧ (s.present = true → r = ⟨.done, []⟩)
        ∧ (s.present = false → t.frame = s.frame ∧ r = ⟨.errNoFrame, []⟩)

/-- R61, its table: on a frame VAL calls `VALID`, each corruption makes VAL answer the matching status; for
CORR, whichever the draw. -/
def Obligations.CorruptionIsReportedByVal : Prop :=
  ∀ s : State, exec .val s = .next (s.reply ⟨.valid, []⟩) →
    (∃ t, exec .corc s = .next t
      ∧ exec .val t = .next (t.reply ⟨.badChecksum,
          [s.frame[34], BitVec.ofNat 8 ((s.frame[34].toNat + 1) % 256)]⟩))
    ∧ (∃ t, exec .cors s = .next t ∧ exec .val t = .next (t.reply ⟨.badStart, []⟩))
    ∧ (∃ t, exec .core s = .next t ∧ exec .val t = .next (t.reply ⟨.badEnd, []⟩))
    ∧ (∀ d : Fin 3, ∃ t r, corruptDrawn d s = .next t ∧ exec .val t = .next (t.reply r)
        ∧ r.status = (if d = 0 then .badChecksum else if d = 1 then .badStart else .badEnd))
    ∧ (∃ t r, exec .corr s = .next t ∧ exec .val t = .next (t.reply r) ∧ r.status ≠ .valid)

/-- `43_corrupt.md` section 6, last paragraph, the spec's own "[derived: from rule R51 and rules R56 to R59]":
after CORC then CORS, CORE then CORS, CORS then CORE, VAL answers `BAD_START`, and after CORC then CORE
`BAD_END`, on a frame VAL called `VALID`. -/
def Obligations.TwoCorruptionsReportEarlierCheck : Prop :=
  ∀ s : State, exec .val s = .next (s.reply ⟨.valid, []⟩) →
    ∀ (a b : Instr) (st : Status),
      (a, b, st) ∈ [(Instr.corc, Instr.cors, Status.badStart), (.core, .cors, .badStart),
        (.cors, .core, .badStart), (.corc, .core, .badEnd)] →
      ∃ t u, exec a s = .next t ∧ exec b t = .next u ∧ exec .val u = .next (u.reply ⟨st, []⟩)

/-- R56, corner cases, over a run: n CORC packets add n to `CHECKSUM` modulo 256 and change no other byte; so
256 of them restore it. -/
def Obligations.RepeatedCorcAddsCount : Prop :=
  ∀ (n : Nat) (s : State) (rest : List HostEvent), s.present = true →
    s.inbox = List.replicate n (.packet [0x30]) ++ rest →
    Host.Core.run Sys2Proof.core n s = .next { s with
      frame := s.frame.set 34 (BitVec.ofNat 8 ((s.frame[34].toNat + n) % 256))
      inbox := rest
      outbox := s.outbox ++ List.replicate n ⟨.done, []⟩ }

/-! ### The wire commands -/

/-- R62: TXW answers the 36 bytes in index order, valid or not, and changes nothing. -/
def Obligations.TxwReportsAllBytes : Prop :=
  ∀ s : State,
    (s.present = true → ∃ d : List Byte, exec .txw s = .next (s.reply ⟨.done, d⟩) ∧ d.length = 36
      ∧ ∀ k : Fin 36, d[k.val]? = some s.frame[k.val])
    ∧ (s.present = false → exec .txw s = .next (s.reply ⟨.errNoFrame, []⟩))
    ∧ (∀ (v : List Byte) (rest : List HostEvent), s.inbox = .packet (0x40 :: v) :: rest → v ≠ [] →
        step s = .next (({ s with inbox := rest } : State).reply ⟨.errIllegal, []⟩))

/-- R63: 36 wire bytes of any content become the frame, positionally, whatever the state; any other size is
refused. -/
def Obligations.RxwLoadsWireBytes : Prop :=
  ∀ (s : State) (w : List Byte),
    decode (0x50 :: w) = .ok (.rxw w)
    ∧ (w.length = 36 → ∃ t, exec (.rxw w) s = .next t ∧ t.present = true
        ∧ (∀ k : Fin 36, w[k.val]? = some t.frame[k.val])
        ∧ t.outbox = s.outbox ++ [⟨.done, []⟩]
        ∧ t.inbox = s.inbox ∧ t.draws = s.draws ∧ t.resets = s.resets)
    ∧ (w.length ≠ 36 → exec (.rxw w) s = .next (s.reply ⟨.errFraming, []⟩))

/-- R64: an operand of any length other than 36 leaves every byte and `PRESENT` as they were. -/
def Obligations.WrongWireSizeIsRefusedWhole : Prop :=
  ∀ (s : State) (w : List Byte) (rest : List HostEvent), s.inbox = .packet (0x50 :: w) :: rest →
    w.length ≠ 36 → step s = .next (({ s with inbox := rest } : State).reply ⟨.errFraming, []⟩)

/-- `44_wire.md` section 4, the spec's own "[derived: from rule R62 and rule R63]": the three round trips. In
the third, `s'` is any state, so any other commands may have run between. -/
def Obligations.WireRoundTrips : Prop :=
  (∀ s : State, s.present = true → ∃ d, exec .txw s = .next (s.reply ⟨.done, d⟩)
    ∧ exec (.rxw d) s = .next (s.reply ⟨.done, []⟩))
  ∧ (∀ (s : State) (w : List Byte), w.length = 36 → ∃ t, exec (.rxw w) s = .next t
    ∧ exec .txw t = .next (t.reply ⟨.done, w⟩))
  ∧ ∀ (s s' : State) (m : List Byte), ∃ t d u, exec (.enc m) s = .next t
    ∧ exec .txw t = .next (t.reply ⟨.done, d⟩)
    ∧ exec (.rxw d) s' = .next u ∧ u.frame = t.frame
    ∧ exec .val u = .next (u.reply ⟨.valid, []⟩)

/-! ### Responses and refusals -/

/-- R36: the nine codes, all different, and bit 7 set exactly for the three refusals. -/
def Obligations.StatusCodesAreTheNine : Prop :=
  Status.valid.code = 0x00 ∧ Status.badStart.code = 0x01 ∧ Status.badEnd.code = 0x02
    ∧ Status.badLength.code = 0x03 ∧ Status.badChecksum.code = 0x04 ∧ Status.done.code = 0x10
    ∧ Status.errIllegal.code = 0x80 ∧ Status.errNoFrame.code = 0x81 ∧ Status.errFraming.code = 0x82
    ∧ ∀ a : Status, (a.isRefusal = true ↔ a = .errIllegal ∨ a = .errNoFrame ∨ a = .errFraming)
      ∧ ∀ b : Status, a.code = b.code → a = b

/-- R35: every decoded command adds exactly one response, from its rows of the table. -/
def Obligations.EveryAnswerIsInTheTable : Prop :=
  ∀ (i : Instr) (s t : State), exec i s = .next t → ∃ r, t.outbox = s.outbox ++ [r] ∧ mayAnswer i r

/-- R68, R76: without a frame each of the seven frame-reading commands is refused and changes nothing. -/
def Obligations.NoFrameIsRefused : Prop :=
  ∀ (s : State) (i : Instr), i ∈ [.csum, .val, .corc, .cors, .core, .corr, .txw] → s.present = false →
    exec i s = .next (s.reply ⟨.errNoFrame, []⟩)

/-- R69: a refused packet changes nothing and its response has no data; a verdict changes nothing either. -/
def Obligations.RefusedPacketChangesNothing : Prop :=
  ∀ (s t : State) (c : List Byte) (rest : List HostEvent), c ≠ [] → s.inbox = .packet c :: rest →
    step s = .next t → ∃ r, t.outbox = s.outbox ++ [r]
      ∧ (r.status.code.msb = true → r.data = [] ∧ t = ({ s with inbox := rest } : State).reply r)
      ∧ (r.status ∈ [.badStart, .badEnd, .badLength, .badChecksum] →
          t = ({ s with inbox := rest } : State).reply r)

/-- R70: one packet gives one status, and the earlier condition of the list wins: it does not decode; it needs a
frame and there is none; then the command's own. -/
def Obligations.StatusPriority : Prop :=
  ∀ (s : State) (op : Byte) (v : List Byte) (rest : List HostEvent), s.inbox = .packet (op :: v) :: rest →
    ∃ t r, step s = .next t ∧ t.outbox = s.outbox ++ [r]
      ∧ (r.status = .errIllegal ↔ ∀ i, decode (op :: v) ≠ .ok i)
      ∧ (r.status = .errNoFrame ↔ s.present = false ∧ ∃ i, decode (op :: v) = .ok i ∧ needsFrame i = true)
      ∧ (r.status = .errFraming ↔ ∃ w, decode (op :: v) = .ok (.rxw w) ∧ w.length ≠ 36)

/-! ### What changes, and what does not -/

/-- R24, R52: CSUM, VAL and TXW leave `PRESENT` and every byte of `F` unchanged, and answer the same when issued
again. -/
def Obligations.ReadingCommandsChangeNothing : Prop :=
  ∀ (s : State) (i : Instr), i ∈ [.csum, .val, .txw] →
    ∃ r, exec i s = .next (s.reply r) ∧ (s.reply r).frame = s.frame ∧ (s.reply r).present = s.present
      ∧ exec i (s.reply r) = .next ((s.reply r).reply r)

/-- R24, last sentence: CORS, CORE, ENC and RXW issued twice leave the frame as once does; CORC issued twice adds
2. Nothing is said of CORR, which repeats CORC's effect when its draw is 0 (R59). -/
def Obligations.EncRxwCorsCoreTwiceAsOnceCorcAddsTwo : Prop :=
  (∀ (s t u : State) (i : Instr),
    i = .cors ∨ i = .core ∨ (∃ m, i = .enc m) ∨ (∃ w, i = .rxw w) →
    exec i s = .next t → exec i t = .next u → u.frame = t.frame ∧ u.present = t.present)
  ∧ ∀ s : State, s.present = true → ∃ t u, exec .corc s = .next t ∧ exec .corc t = .next u
      ∧ u.frame = s.frame.set 34 (BitVec.ofNat 8 ((s.frame[34].toNat + 2) % 256))

/-- R14, the "W" marks: the bytes and the flag each command can change. -/
def Obligations.OnlyListedBytesAreWritten : Prop :=
  ∀ (s t : State) (i : Instr), exec i s = .next t →
    (∀ k : Fin 36, t.frame[k.val] ≠ s.frame[k.val] →
      (∃ m, i = .enc m) ∨ (∃ w, i = .rxw w ∧ w.length = 36)
        ∨ (i = .corc ∧ k.val = 34) ∨ (i = .cors ∧ k.val = 0) ∨ (i = .core ∧ k.val = 35)
        ∨ (i = .corr ∧ (k.val = 34 ∨ k.val = 0 ∨ k.val = 35)))
    ∧ (t.present ≠ s.present → t.present = true ∧ ((∃ m, i = .enc m) ∨ ∃ w, i = .rxw w ∧ w.length = 36))

/-- R13, R77: only a reset clears `PRESENT`, and only an ENC or a 36-byte RXW sets it. -/
def Obligations.PresentChangesOnlyAsListed : Prop :=
  ∀ s t : State, step s = .next t →
    (s.present = true → t.present = false → s.inbox.head? = some .reset)
    ∧ (s.present = false → t.present = true → ∃ c i, s.inbox.head? = some (.packet c) ∧ decode c = .ok i
        ∧ ((∃ m, i = .enc m) ∨ ∃ w, i = .rxw w ∧ w.length = 36))

/-! ### Reset -/

/-- R19: after reset there is no frame, so each of the seven frame-reading commands is refused. That the host
has sent and been answered nothing is log 2, the model's choice; nothing is said of `F`. -/
def Obligations.ResetLeavesNoFrame : Prop :=
  State.reset.present = false ∧ State.reset.inbox = [] ∧ State.reset.outbox = []
    ∧ ∀ i, needsFrame i = true → exec i State.reset = .next (State.reset.reply ⟨.errNoFrame, []⟩)

/-- R75: a reset event clears `PRESENT` and gives no response; nothing is said of `F`. -/
def Obligations.ResetEventClearsPresent : Prop :=
  ∀ (s : State) (rest : List HostEvent), s.inbox = .reset :: rest →
    ∃ t, step s = .next t ∧ t.present = false ∧ t.inbox = rest ∧ t.outbox = s.outbox ∧ t.draws = s.draws

/-- R19: what `F` holds while `PRESENT` = 0 cannot be observed: two runs, of any length and with any events,
that differ only in it give the same responses, the same `PRESENT`, and the same frame once there is one. Both
runs take the same draws and the same frames at later resets (logs 4, 5, 6), an unsafe assumption of two separate
machines. That both runs go on through steps with nothing sent, empty packets and every other step is the model's
reading (logs 7, 8, 12). -/
def Obligations.AbsentFrameIsUnobservable : Prop :=
  ∀ (n : Nat) (s : State) (f : Frame), s.present = false →
    ∃ t t', Host.Core.run Sys2Proof.core n s = .next t
      ∧ Host.Core.run Sys2Proof.core n ({ s with frame := f } : State) = .next t'
      ∧ t.outbox = t'.outbox ∧ t.inbox = t'.inbox ∧ t.present = t'.present
      ∧ (t.present = true → t.frame = t'.frame)

/-! ### Runs -/

/-- In every state the step answers a next state: no fault, no halt. R67 says that every outcome is an ordinary
response; that no step at all faults is log 12 (DEDUCED), that a step answers with nothing sent is log 7 (DEDUCED)
and on an empty packet log 8 (DESIGN CHOICE): the model's reading, not the spec's words. -/
def Obligations.EveryStateRuns : Prop := ∀ s : State, Runs s

/-- A run over all that the host sent ends with nothing in flight and one more response for every command packet,
the earlier responses kept. R78 says that every packet is answered; the account of a run in R80 is the spec's own
"[derived: from rule R26 and rule R78]". The model's part: that no step stops the run is log 12 (DEDUCED), that an
empty packet is taken off in one step with no response is log 8 (DESIGN CHOICE), and `inbox` and `outbox` are log 2
(DESIGN CHOICE). -/
def Obligations.EveryPacketIsAnswered : Prop :=
  ∀ s : State, ∃ t answers, Host.Core.run Sys2Proof.core s.inbox.length s = .next t
    ∧ t.inbox = [] ∧ t.outbox = s.outbox ++ answers ∧ answers.length = packetCount s.inbox

/-- R26, item 2: a command sees no effect of any later one: what comes after in the inbox has no influence. The two
runs compared take the same draws and the same frames at resets (logs 4, 5, DESIGN CHOICE), which those logs call
unsafe for a claim about two separate machines. That both runs answer a state at all is log 12 (DEDUCED), and that
an empty packet takes one step is log 8 (DESIGN CHOICE). -/
def Obligations.LaterEventsHaveNoInfluence : Prop :=
  ∀ (s : State) (earlier later : List HostEvent), ∃ t,
    Host.Core.run Sys2Proof.core earlier.length ({ s with inbox := earlier } : State) = .next t
    ∧ t.inbox = []
    ∧ Host.Core.run Sys2Proof.core earlier.length ({ s with inbox := earlier ++ later } : State)
        = .next { t with inbox := later }

/-- R35, R36, R54: every step keeps the invariant that the host has only been given responses of the table. -/
def Obligations.StepKeepsOutboxLegal : Prop :=
  ∀ s t : State, OutboxLegal s → step s = .next t → OutboxLegal t

/-- The invariant of `StepKeepsOutboxLegal` holds at reset, because `State.reset` has an empty `outbox`: that is log 2
(DESIGN CHOICE), the model's; the spec gives the block no record of responses. -/
def Obligations.ResetOutboxIsLegal : Prop := OutboxLegal State.reset
end

