-- ==== Sys2Proof/Laws/Frame.lean ====
section
/-! SUPPORT. What each operation over the frame register says of a byte. -/

namespace Sys2Proof.Machine

/-! ### Bytes by index -/

@[simp] theorem memRead_eq (f : Frame) (i : Nat) (h : i < 36) : memRead f i h = f[i] := rfl

@[simp] theorem startByte_eq (f : Frame) : startByte f = f[0] := rfl

@[simp] theorem lengthByte_eq (f : Frame) : lengthByte f = f[1] := rfl

@[simp] theorem checksumByte_eq (f : Frame) : checksumByte f = f[34] := rfl

@[simp] theorem endByte_eq (f : Frame) : endByte f = f[35] := rfl

/-- A read after a write gives the value written at that index, and the old value at every other. -/
theorem getElem_memWrite (f : Frame) (i j : Nat) (v : Byte) (hi : i < 36) (hj : j < 36) :
    (memWrite f i v hi)[j] = if i = j then v else f[j] := by
  simp [memWrite, Vector.getElem_set]

theorem payload_length (f : Frame) : (payload f).length = 32 := by
  simp [payload, offPayload, payloadCap]

/-- `PAYLOAD[i]` = `F[2 + i]` (R11). -/
theorem getElem_payload (f : Frame) (i : Nat) (h : i < (payload f).length) :
    (payload f)[i] = f[2 + i]'(by rw [payload_length] at h; omega) := by
  simp [payload, offPayload]

/-- Two frames with equal bytes are equal. -/
theorem frame_ext {f g : Frame} (h : ∀ i : Fin 36, f[i.val] = g[i.val]) : f = g :=
  Vector.ext fun i hi => h ⟨i, hi⟩

/-! ### Wire bytes -/

@[simp] theorem wireBytes_length (f : Frame) : (wireBytes f).length = 36 := by simp [wireBytes]

/-- Wire byte `k` is `F[k]` (R21). -/
@[simp] theorem getElem_frameOfWire (w : List Byte) (h : w.length = 36) (k : Nat) (hk : k < 36) :
    (frameOfWire w h)[k] = w[k] := by
  simp [frameOfWire]

/-- Loading what was sent gives the frame back (R65). -/
@[simp] theorem frameOfWire_wireBytes (f : Frame) (h : (wireBytes f).length = 36) :
    frameOfWire (wireBytes f) h = f := by
  apply frame_ext; intro i; simp [wireBytes]

/-- Sending what was loaded gives the wire bytes back (R65). -/
@[simp] theorem wireBytes_frameOfWire (w : List Byte) (h : w.length = 36) :
    wireBytes (frameOfWire w h) = w := by
  simp [wireBytes, frameOfWire, Vector.toList]

theorem wireOperand_of_length {w : List Byte} (h : w.length = 36) :
    wireOperand w = some (frameOfWire w h) := by simp [wireOperand, h]

theorem wireOperand_of_ne {w : List Byte} (h : w.length ≠ 36) : wireOperand w = none := by
  simp [wireOperand, h]

/-! ### Checksum -/

/-- `Csum` depends on the summed bytes only (R42, R45). -/
theorem checksum_congr {f g : Frame} (h0 : f[0] = g[0]) (h1 : f[1] = g[1]) (h35 : f[35] = g[35])
    (hp : (payload f).take (summedCount f) = (payload g).take (summedCount f)) :
    checksum f = checksum g := by
  have hn : summedCount g = summedCount f := by simp [summedCount, h1]
  simp [checksum, checksumTotal, h0, h1, h35, hn, hp]

theorem payload_memWrite_checksum (f : Frame) (v : Byte) :
    payload (memWrite f offChecksum v) = payload f := by
  apply List.ext_getElem (by simp [payload_length])
  intro i h1 h2
  have hi : i < 32 := by rw [payload_length] at h2; exact h2
  rw [getElem_payload, getElem_payload, getElem_memWrite, if_neg]
  simp only [offChecksum, payloadCap]; omega

/-- `CHECKSUM` "is not an input" (R40). -/
@[simp] theorem checksum_memWrite_checksum (f : Frame) (v : Byte) :
    checksum (memWrite f offChecksum v) = checksum f := by
  have e : ∀ j (hj : j < 36), j ≠ 34 → (memWrite f offChecksum v)[j] = f[j] := by
    intro j hj hne
    rw [getElem_memWrite]
    have : offChecksum ≠ j := by simp [offChecksum, payloadCap]; omega
    simp [this]
  apply checksum_congr (e 0 _ (by decide)) (e 1 _ (by decide)) (e 35 _ (by decide))
  rw [payload_memWrite_checksum]

/-! ### Corruption -/

/-- The bytes of a corrupted frame (R60). -/
theorem getElem_corruptFrame (k : CorruptKind) (f : Frame) (j : Nat) (hj : j < 36) :
    (corruptFrame k f)[j] = if (corruptIndex k).val = j then corruptValue k f else f[j] :=
  getElem_memWrite _ _ _ _ _ _

/-! ### ENC -/

/-- The frame of ENC, byte by byte, before its checksum is written. -/
theorem getElem_unsummedFrame (m : List Byte) (k : Nat) (hk : k < 36) :
    (unsummedFrame m)[k] = (stx :: messageLength m :: (paddedPayload m ++ [0x00, etx]))[k]'(by
      simp [length_paddedPayload, payloadCap]; omega) := by
  simp [unsummedFrame]

/-- The payload field of ENC's frame is the padded message (R46, R48). -/
theorem payload_unsummedFrame (m : List Byte) : payload (unsummedFrame m) = paddedPayload m := by
  apply List.ext_getElem (by simp [payload_length, length_paddedPayload, payloadCap])
  intro i h1 h2
  have hi : i < 32 := by rw [payload_length] at h1; exact h1
  rw [getElem_payload, getElem_unsummedFrame]
  simp only [Nat.add_comm 2 i, List.getElem_cons_succ]
  rw [List.getElem_append_left h2]

end Sys2Proof.Machine
end

