-- ==== Sys2Proof/Laws/Construct.lean ====
section
/-! SUPPORT. What `encodeFrame` and `verdict` say, once each. -/

namespace Sys2Proof.Machine

/-- A byte of the padded payload: a message byte, or zero past the end of the message (R46, R48). -/
theorem getElem_paddedPayload (m : List Byte) (i : Nat) (h : i < (paddedPayload m).length) :
    (paddedPayload m)[i] = m.getD i 0 := by
  have h32 : i < 32 := by rw [length_paddedPayload] at h; exact h
  simp only [paddedPayload, List.getElem_append]
  split
  · rename_i h1
    simp only [messageBytes, payloadCap, List.length_take] at h1
    simp [messageBytes, payloadCap, List.getElem?_eq_getElem (show i < m.length by omega)]
  · rename_i h1
    simp only [messageBytes, payloadCap, List.length_take] at h1
    simp [List.getElem?_eq_none (show m.length ≤ i by omega)]

/-- `Encode(M)` is the other fields with `Csum` of itself at index 34 (R46). -/
theorem getElem_encodeFrame (m : List Byte) (k : Nat) (hk : k < 36) :
    (encodeFrame m)[k] = if 34 = k then checksum (encodeFrame m) else (unsummedFrame m)[k] := by
  unfold encodeFrame
  rw [getElem_memWrite]
  simp only [checksum_memWrite_checksum]
  rfl

/-- The payload field of `Encode(M)` (R46). -/
theorem payload_encodeFrame (m : List Byte) : payload (encodeFrame m) = paddedPayload m := by
  unfold encodeFrame
  rw [payload_memWrite_checksum, payload_unsummedFrame]

/-- Everything VAL can say of a frame, with what it means (R51). -/
theorem verdict_cases (f : Frame) :
    (f[0] ≠ 0x02 ∧ verdict f = ⟨.badStart, []⟩)
      ∨ (f[0] = 0x02 ∧ f[35] ≠ 0x03 ∧ verdict f = ⟨.badEnd, []⟩)
      ∨ (f[0] = 0x02 ∧ f[35] = 0x03 ∧ 32 < f[1].toNat ∧ verdict f = ⟨.badLength, []⟩)
      ∨ (f[0] = 0x02 ∧ f[35] = 0x03 ∧ f[1].toNat ≤ 32 ∧ checksum f ≠ f[34]
          ∧ verdict f = ⟨.badChecksum, [checksum f, f[34]]⟩)
      ∨ (f[0] = 0x02 ∧ f[35] = 0x03 ∧ f[1].toNat ≤ 32 ∧ checksum f = f[34]
          ∧ verdict f = ⟨.valid, []⟩) := by
  by_cases h0 : f[0] = 0x02
  · by_cases h35 : f[35] = 0x03
    · by_cases h1 : 32 < f[1].toNat
      · exact .inr (.inr (.inl ⟨h0, h35, h1, by simp [verdict, h0, h35, h1, stx, etx, payloadCap]⟩))
      · have h1' : f[1].toNat ≤ 32 := Nat.not_lt.1 h1
        by_cases hc : checksum f = f[34]
        · exact .inr (.inr (.inr (.inr ⟨h0, h35, h1', hc, by
            simp [verdict, h0, h35, h1, hc, stx, etx, payloadCap]⟩)))
        · exact .inr (.inr (.inr (.inl ⟨h0, h35, h1', hc, by
            simp [verdict, h0, h35, h1, hc, stx, etx, payloadCap]⟩)))
    · exact .inr (.inl ⟨h0, h35, by
        rw [verdict, if_neg (show ¬startByte f ≠ stx from not_not_intro h0), if_pos (show endByte f ≠ etx from h35)]⟩)
  · exact .inl ⟨h0, by rw [verdict, if_pos (show startByte f ≠ stx from h0)]⟩

end Sys2Proof.Machine
end

