-- ==== Sys2Proof/Laws/PerInstr.lean ====
section
/-! SUPPORT. A statement about every command as text, one lemma per constructor. -/

namespace Sys2Proof.Laws.PacketForm

/-- The packet of a command starts with its opcode, decodes to it, and is well formed; it is longer than one
byte only for ENC and RXW (R31, R33, R34). -/
def Statement (i : Instr) : Prop :=
  decode (encode i) = .ok i ∧ Packet.wellFormed (encode i) = true
    ∧ (Packet.opOpcodes.contains (opcodeOf i) = true → (encode i).length = 1)

theorem enc (message : List Byte) : Statement (.enc message) :=
  ⟨rfl, rfl, fun h => absurd h Bool.false_ne_true⟩

theorem val : Statement .val := by unfold Statement; decide

theorem corc : Statement .corc := by unfold Statement; decide

theorem cors : Statement .cors := by unfold Statement; decide

theorem core : Statement .core := by unfold Statement; decide

theorem corr : Statement .corr := by unfold Statement; decide

theorem txw : Statement .txw := by unfold Statement; decide

theorem rxw (wire : List Byte) : Statement (.rxw wire) :=
  ⟨rfl, rfl, fun h => absurd h Bool.false_ne_true⟩

theorem csum : Statement .csum := by unfold Statement; decide

end Sys2Proof.Laws.PacketForm
end

