-- ==== Sys2Proof/Laws/State.lean ====
section
/-! SUPPORT. One lemma per field per update of the state, so that no proof unfolds a record update. -/

namespace Sys2Proof.Machine

variable (s : State)

/-! ### `State.reply` -/

@[simp] theorem State.reply_frame (r : Response) : (s.reply r).frame = s.frame := rfl
@[simp] theorem State.reply_present (r : Response) : (s.reply r).present = s.present := rfl
@[simp] theorem State.reply_inbox (r : Response) : (s.reply r).inbox = s.inbox := rfl
@[simp] theorem State.reply_outbox (r : Response) : (s.reply r).outbox = s.outbox ++ [r] := rfl
@[simp] theorem State.reply_draws (r : Response) : (s.reply r).draws = s.draws := rfl
@[simp] theorem State.reply_resets (r : Response) : (s.reply r).resets = s.resets := rfl

/-! ### `State.setFrame` -/

@[simp] theorem State.setFrame_frame (f : Frame) : (s.setFrame f).frame = f := rfl
@[simp] theorem State.setFrame_present (f : Frame) : (s.setFrame f).present = s.present := rfl
@[simp] theorem State.setFrame_inbox (f : Frame) : (s.setFrame f).inbox = s.inbox := rfl
@[simp] theorem State.setFrame_outbox (f : Frame) : (s.setFrame f).outbox = s.outbox := rfl
@[simp] theorem State.setFrame_draws (f : Frame) : (s.setFrame f).draws = s.draws := rfl
@[simp] theorem State.setFrame_resets (f : Frame) : (s.setFrame f).resets = s.resets := rfl

/-! ### `State.countDraw` -/

@[simp] theorem State.countDraw_frame : (s.countDraw).frame = s.frame := rfl
@[simp] theorem State.countDraw_present : (s.countDraw).present = s.present := rfl
@[simp] theorem State.countDraw_inbox : (s.countDraw).inbox = s.inbox := rfl
@[simp] theorem State.countDraw_outbox : (s.countDraw).outbox = s.outbox := rfl
@[simp] theorem State.countDraw_draws : (s.countDraw).draws = s.draws + 1 := rfl
@[simp] theorem State.countDraw_resets : (s.countDraw).resets = s.resets := rfl

/-! ### `State.loadFrame` -/

@[simp] theorem State.loadFrame_frame (f : Frame) : (s.loadFrame f).frame = f := rfl
@[simp] theorem State.loadFrame_present (f : Frame) : (s.loadFrame f).present = true := rfl
@[simp] theorem State.loadFrame_inbox (f : Frame) : (s.loadFrame f).inbox = s.inbox := rfl
@[simp] theorem State.loadFrame_outbox (f : Frame) : (s.loadFrame f).outbox = s.outbox := rfl
@[simp] theorem State.loadFrame_draws (f : Frame) : (s.loadFrame f).draws = s.draws := rfl
@[simp] theorem State.loadFrame_resets (f : Frame) : (s.loadFrame f).resets = s.resets := rfl

/-! ### `State.applyReset` -/

@[simp] theorem State.applyReset_frame : (s.applyReset).frame = Config.resetFrame s.resets := rfl
@[simp] theorem State.applyReset_present : (s.applyReset).present = false := rfl
@[simp] theorem State.applyReset_inbox : (s.applyReset).inbox = s.inbox := rfl
@[simp] theorem State.applyReset_outbox : (s.applyReset).outbox = s.outbox := rfl
@[simp] theorem State.applyReset_draws : (s.applyReset).draws = s.draws := rfl
@[simp] theorem State.applyReset_resets : (s.applyReset).resets = s.resets + 1 := rfl

/-! ### `State.withInbox` -/

@[simp] theorem State.withInbox_frame (l : List HostEvent) : (s.withInbox l).frame = s.frame := rfl
@[simp] theorem State.withInbox_present (l : List HostEvent) : (s.withInbox l).present = s.present := rfl
@[simp] theorem State.withInbox_inbox (l : List HostEvent) : (s.withInbox l).inbox = l := rfl
@[simp] theorem State.withInbox_outbox (l : List HostEvent) : (s.withInbox l).outbox = s.outbox := rfl
@[simp] theorem State.withInbox_draws (l : List HostEvent) : (s.withInbox l).draws = s.draws := rfl
@[simp] theorem State.withInbox_resets (l : List HostEvent) : (s.withInbox l).resets = s.resets := rfl

/-! ### `State.placePacket` -/

@[simp] theorem State.placePacket_frame (c : List Byte) : (s.placePacket c).frame = s.frame := rfl
@[simp] theorem State.placePacket_present (c : List Byte) : (s.placePacket c).present = s.present := rfl
@[simp] theorem State.placePacket_inbox (c : List Byte) : (s.placePacket c).inbox = .packet c :: s.inbox := rfl
@[simp] theorem State.placePacket_outbox (c : List Byte) : (s.placePacket c).outbox = s.outbox := rfl
@[simp] theorem State.placePacket_draws (c : List Byte) : (s.placePacket c).draws = s.draws := rfl
@[simp] theorem State.placePacket_resets (c : List Byte) : (s.placePacket c).resets = s.resets := rfl

end Sys2Proof.Machine
end

