-- ==== Sys2Proof/Laws/Step.lean ====
section
/-! SUPPORT. What each shared operation, each command and a step can answer, said once. -/

namespace Sys2Proof.Machine

/-! ### Shared operations -/

@[simp] theorem State.respond_eq (s : State) (st : Status) (d : List Byte) :
    s.respond st d = .next (s.reply ⟨st, d⟩) := rfl

@[simp] theorem State.refuse_eq (s : State) (st : Status) : s.refuse st = .next (s.reply ⟨st, []⟩) := rfl

theorem State.withFrame_present {s : State} (h : s.present = true) (k : Frame → StepOutcome) :
    s.withFrame k = k s.frame := by simp [State.withFrame, h]

theorem State.withFrame_absent {s : State} (h : s.present = false) (k : Frame → StepOutcome) :
    s.withFrame k = .next (s.reply ⟨.errNoFrame, []⟩) := by simp [State.withFrame, h]

/-- Everything a command that needs a frame can do: run on the frame, or refuse without one. -/
theorem State.withFrame_cases {s t : State} {k : Frame → StepOutcome} (h : s.withFrame k = .next t) :
    (s.present = true ∧ k s.frame = .next t) ∨ (s.present = false ∧ t = s.reply ⟨.errNoFrame, []⟩) := by
  cases hp : s.present with
  | true => exact .inl ⟨rfl, by rwa [State.withFrame_present hp] at h⟩
  | false =>
    rw [State.withFrame_absent hp] at h
    exact .inr ⟨rfl, by cases h; rfl⟩

/-- Everything the three commands of a given kind can do. -/
theorem corruptAs_cases {k : CorruptKind} {s t : State} (h : corruptAs k s = .next t) :
    (s.present = true ∧ t = (s.setFrame (corruptFrame k s.frame)).reply ⟨.done, []⟩)
      ∨ (s.present = false ∧ t = s.reply ⟨.errNoFrame, []⟩) := by
  rcases State.withFrame_cases h with ⟨hp, h⟩ | h
  · cases h; exact .inl ⟨hp, rfl⟩
  · exact .inr h

/-- Everything a drawn corruption can do. -/
theorem corruptDrawn_cases {d : Fin 3} {s t : State} (h : corruptDrawn d s = .next t) :
    (s.present = true
        ∧ t = ((s.setFrame (corruptFrame (kindOfDraw d) s.frame)).countDraw).reply ⟨.done, []⟩)
      ∨ (s.present = false ∧ t = s.reply ⟨.errNoFrame, []⟩) := by
  rcases State.withFrame_cases h with ⟨hp, h⟩ | h
  · cases h; exact .inl ⟨hp, rfl⟩
  · exact .inr h

/-! ### Commands -/

@[simp] theorem exec_enc (m : List Byte) (s : State) :
    exec (.enc m) s = .next ((s.loadFrame (encodeFrame m)).reply ⟨.done, []⟩) := rfl

theorem exec_rxw_of_length {w : List Byte} (h : w.length = 36) (s : State) :
    exec (.rxw w) s = .next ((s.loadFrame (frameOfWire w h)).reply ⟨.done, []⟩) := by
  simp [exec, execRxw, wireOperand_of_length h]

theorem exec_rxw_of_ne {w : List Byte} (h : w.length ≠ 36) (s : State) :
    exec (.rxw w) s = .next (s.reply ⟨.errFraming, []⟩) := by
  simp [exec, execRxw, wireOperand_of_ne h]

theorem exec_csum_present {s : State} (h : s.present = true) :
    exec .csum s = .next (s.reply ⟨.done, [checksum s.frame]⟩) := by
  simp [exec, execCsum, State.withFrame_present h]

theorem exec_val_present {s : State} (h : s.present = true) :
    exec .val s = .next (s.reply (verdict s.frame)) := by
  simp [exec, execVal, State.withFrame_present h]

theorem exec_txw_present {s : State} (h : s.present = true) :
    exec .txw s = .next (s.reply ⟨.done, wireBytes s.frame⟩) := by
  simp [exec, execTxw, State.withFrame_present h]

theorem corruptAs_present {s : State} (h : s.present = true) (k : CorruptKind) :
    corruptAs k s = .next ((s.setFrame (corruptFrame k s.frame)).reply ⟨.done, []⟩) := by
  simp [corruptAs, State.withFrame_present h]

theorem corruptDrawn_present {s : State} (h : s.present = true) (d : Fin 3) :
    corruptDrawn d s
      = .next (((s.setFrame (corruptFrame (kindOfDraw d) s.frame)).countDraw).reply ⟨.done, []⟩) := by
  simp [corruptDrawn, State.withFrame_present h]

/-- Everything a command can do: answer and change nothing; load a whole frame; corrupt the current one. -/
inductive Effect (i : Instr) (s t : State) : Prop where
  /-- CSUM, VAL, TXW with a frame, or any refusal. -/
  | answers (r : Response) (ht : t = s.reply r)
  /-- ENC, or RXW of 36 bytes. -/
  | loads (f : Frame) (ht : t = (s.loadFrame f).reply ⟨.done, []⟩)
      (hi : (∃ m, i = .enc m ∧ f = encodeFrame m) ∨ (∃ w h, i = .rxw w ∧ f = frameOfWire w h))
  /-- CORC, CORS, CORE with a frame. -/
  | corrupts (k : CorruptKind) (hp : s.present = true)
      (ht : t = (s.setFrame (corruptFrame k s.frame)).reply ⟨.done, []⟩)
      (hi : (i = .corc ∧ k = .checksum) ∨ (i = .cors ∧ k = .startByte) ∨ (i = .core ∧ k = .endByte))
  /-- CORR with a frame. -/
  | corruptsDrawn (hp : s.present = true) (hi : i = .corr)
      (ht : t = ((s.setFrame (corruptFrame (kindOfDraw (Config.freeDraw s.draws)) s.frame)).countDraw).reply
        ⟨.done, []⟩)

/-- The inversion lemma of `exec`. -/
theorem exec_effect {i : Instr} {s t : State} (h : exec i s = .next t) : Effect i s t := by
  cases i with
  | enc m => cases h; exact .loads _ rfl (.inl ⟨m, rfl, rfl⟩)
  | rxw w =>
    by_cases hw : w.length = 36
    · rw [exec_rxw_of_length hw] at h; cases h; exact .loads _ rfl (.inr ⟨w, hw, rfl, rfl⟩)
    · rw [exec_rxw_of_ne hw] at h; cases h; exact .answers _ rfl
  | val =>
    simp only [exec, execVal] at h
    rcases State.withFrame_cases h with ⟨_, h⟩ | ⟨_, h⟩
    · cases h; exact .answers _ rfl
    · exact .answers _ h
  | csum =>
    simp only [exec, execCsum] at h
    rcases State.withFrame_cases h with ⟨_, h⟩ | ⟨_, h⟩
    · cases h; exact .answers _ rfl
    · exact .answers _ h
  | txw =>
    simp only [exec, execTxw] at h
    rcases State.withFrame_cases h with ⟨_, h⟩ | ⟨_, h⟩
    · cases h; exact .answers _ rfl
    · exact .answers _ h
  | corc =>
    rcases corruptAs_cases h with ⟨hp, h⟩ | ⟨_, h⟩
    · exact .corrupts _ hp h (.inl ⟨rfl, rfl⟩)
    · exact .answers _ h
  | cors =>
    rcases corruptAs_cases h with ⟨hp, h⟩ | ⟨_, h⟩
    · exact .corrupts _ hp h (.inr (.inl ⟨rfl, rfl⟩))
    · exact .answers _ h
  | core =>
    rcases corruptAs_cases h with ⟨hp, h⟩ | ⟨_, h⟩
    · exact .corrupts _ hp h (.inr (.inr ⟨rfl, rfl⟩))
    · exact .answers _ h
  | corr =>
    rcases corruptDrawn_cases h with ⟨hp, h⟩ | ⟨_, h⟩
    · exact .corruptsDrawn hp rfl h
    · exact .answers _ h

/-- No command touches the host's pending events or the count of resets. -/
theorem exec_keeps_inbox {i : Instr} {s t : State} (h : exec i s = .next t) :
    t.inbox = s.inbox ∧ t.resets = s.resets := by
  cases exec_effect h with
  | answers r ht => subst ht; exact ⟨rfl, rfl⟩
  | loads f ht hi => subst ht; exact ⟨rfl, rfl⟩
  | corrupts k hp ht hi => subst ht; exact ⟨rfl, rfl⟩
  | corruptsDrawn hp hi ht => subst ht; exact ⟨rfl, rfl⟩

/-! ### Transactions -/

theorem runPacket_ok {c : List Byte} {i : Instr} (h : decode c = .ok i) (s : State) :
    runPacket c s = exec i s := by simp [runPacket, h]

theorem runPacket_empty (s : State) : runPacket [] s = .next s := rfl

/-- A packet that does not decode is refused and changes nothing (R37, R34). -/
theorem runPacket_reject {op : Byte} {v : List Byte} (h : ∀ i, decode (op :: v) ≠ .ok i) (s : State) :
    runPacket (op :: v) s = .next (s.reply ⟨.errIllegal, []⟩) := by
  have hne : decode (op :: v) ≠ .reject .emptyPacket := by
    simp only [decode]
    repeat' split
    all_goals simp
  unfold runPacket
  split
  · exact absurd ‹_› (h _)
  · exact absurd ‹_› hne
  · rfl
  · rfl

theorem step_nil {s : State} (h : s.inbox = []) : step s = .next s := by simp [step, h, idle]

theorem step_cons {s : State} {e : HostEvent} {rest : List HostEvent} (h : s.inbox = e :: rest) :
    step s = takeEvent e (s.withInbox rest) := by simp [step, h]

end Sys2Proof.Machine
end

