-- ==== Sys2Proof/Laws/Run.lean ====
section
/-! SUPPORT. Runs of the machine: one step at a time, and an invariant carried along a run. -/

namespace Sys2Proof.Machine

theorem run_zero (s : State) : Host.Core.run Sys2Proof.core 0 s = .next s := rfl

/-- A run's first step, when it answers a next state. -/
theorem run_succ {s u : State} (h : step s = .next u) (n : Nat) :
    Host.Core.run Sys2Proof.core (n + 1) s = Host.Core.run Sys2Proof.core n u := by
  have h' : Host.Core.step Sys2Proof.core s = .next u := h
  simp only [Host.Core.run, h']

/-- What every step keeps, every run keeps. -/
theorem run_keeps {P : State → Prop} (keep : ∀ s t, P s → step s = .next t → P t) (n : Nat) (s t : State)
    (hs : P s) (h : Host.Core.run Sys2Proof.core n s = .next t) : P t := by
  induction n generalizing s with
  | zero => cases h; exact hs
  | succ n ih =>
    cases hu : step s with
    | next u => rw [run_succ hu] at h; exact ih u (keep s u hs hu) h
    | fault r => cases r
    | refused r =>
      have h' : Host.Core.step Sys2Proof.core s = .refused r := hu
      simp only [Host.Core.run, h'] at h
      cases h

end Sys2Proof.Machine
end

