-- ==== Sys2Proof/Tests/Slice0.lean ====
section
/-! SUPPORT. Small tests, their expected results from spec/95_test_vectors.md or worked out from a rule, and for
every statement with hypotheses a witness that meets them. -/

namespace Sys2Proof.Tests

open Sys2Proof.Machine

/-! ### Helpers -/

/-- The response a step gave last. -/
def answerOf (o : StepOutcome) : Option Response :=
  match o with
  | .next t => t.outbox.getLast?
  | .fault _ => none
  | .refused _ => none

/-- The frame after a step, as wire bytes. -/
def frameAfter (o : StepOutcome) : Option (List Byte) :=
  match o with
  | .next t => some t.frame.toList
  | .fault _ => none
  | .refused _ => none

/-- `PRESENT` after a step. -/
def presentAfter (o : StepOutcome) : Option Bool :=
  match o with
  | .next t => some t.present
  | .fault _ => none
  | .refused _ => none

/-- A frame with a payload that starts with `p` and goes on with `pad`. -/
def wire (start length : Byte) (p : List Byte) (pad : Byte) (chk stop : Byte) : List Byte :=
  start :: length :: (p ++ List.replicate (32 - p.length) pad) ++ [chk, stop]

/-- A state with a frame present; the frame is zero where the bytes are not 36. -/
def holding (w : List Byte) : State :=
  match wireOperand w with
  | some f => { State.reset with frame := f, present := true }
  | none => State.reset

/-- The spec's frame `HI`. -/
def hiBytes : List Byte := wire 0x02 0x02 [0x48, 0x69] 0x00 0xB8 0x03

/-- `P=1 F=HI`. -/
def hi : State := holding hiBytes

/-- `HI` with the events `es` still to take. -/
def hiWith (es : List HostEvent) : State := { hi with inbox := es }

/-! ### Well-formed packets: an ill-formed one for each check -/

theorem test_empty_packet_refused_by_hasOpcode : Packet.hasOpcode [] = false := by decide

theorem test_reserved_opcode_refused_by_opcodeAssigned : Packet.opcodeAssigned [0x34] = false := by decide

theorem test_operand_refused_by_operandAllowed : Packet.operandAllowed [0x20, 0x00] = false := by decide

theorem test_ill_formed_packets_refused :
    Packet.wellFormed [] = false ∧ Packet.wellFormed [0x11, 0x48] = false
      ∧ Packet.wellFormed [0x40, 0x01] = false ∧ Packet.wellFormed [0x50] = true := by decide

/-! ### Decoding: words written out bit by bit from R31 to R33 -/

theorem test_decode_enc : decode [0b00010000#8, 0b01000001#8] = .ok (.enc [0x41]) := by decide

theorem test_decode_enc_empty : decode [0b00010000#8] = .ok (.enc []) := by decide

theorem test_decode_val : decode [0b00100000#8] = .ok .val := by decide

theorem test_decode_corc : decode [0b00110000#8] = .ok .corc := by decide

theorem test_decode_cors : decode [0b00110001#8] = .ok .cors := by decide

theorem test_decode_core : decode [0b00110010#8] = .ok .core := by decide

theorem test_decode_corr : decode [0b00110011#8] = .ok .corr := by decide

theorem test_decode_txw : decode [0b01000000#8] = .ok .txw := by decide

theorem test_decode_rxw : decode [0b01010000#8, 0b00000010#8] = .ok (.rxw [0x02]) := by decide

theorem test_decode_csum : decode [0b01100000#8] = .ok .csum := by decide

/-- V-D1 to V-D6, V-D10: what is refused, and why. -/
theorem test_decode_rejects :
    decode [] = .reject .emptyPacket ∧ decode [0x00] = .reject (.reservedOpcode 0x00)
      ∧ decode [0xFF] = .reject (.reservedOpcode 0xFF)
      ∧ decode [0x11, 0x48, 0x69] = .reject (.reservedOpcode 0x11)
      ∧ decode [0x34] = .reject (.reservedOpcode 0x34) ∧ decode [0x20, 0x00] = .reject (.operandOnOp 0x20)
      ∧ decode [0x33, 0x00] = .reject (.operandOnOp 0x33) := by decide

/-- The table's numbering: the opcode is bits 7 to 0, the first operand byte bits 15 to 8. -/
theorem test_table_words :
    decodeTableWord 8 0x60 = some .csum ∧ decodeTableWord 16 0x4110 = some (.enc [0x41])
      ∧ decodeTableWord 8 0x34 = none := by decide

/-! ### One step each -/

/-- V-E7: forty bytes 0x41 to 0x68, truncated to 32; the last kept is 0x60 and the checksum 0x35. -/
theorem test_enc_truncates :
    frameAfter (exec (.enc ((List.range 40).map fun k => BitVec.ofNat 8 (0x41 + k))) hi)
      = some (0x02 :: 0x20 :: ((List.range 32).map fun k => BitVec.ofNat 8 (0x41 + k)) ++ [0x35, 0x03]) := by
  decide

/-- V-E12: the checksum wraps to 0x00. V-E14: no frame is needed. -/
theorem test_enc_checksum_wraps :
    frameAfter (exec (.enc [0xFA]) State.reset) = some (wire 0x02 0x01 [0xFA] 0x00 0x00 0x03)
      ∧ presentAfter (exec (.enc [0xFA]) State.reset) = some true := by decide

/-- V-C9 and V-C5: the fields are summed, not the constants; padding is not. -/
theorem test_csum_fields_and_padding :
    answerOf (exec .csum (holding (wire 0xFF 0x02 [0x48, 0x69] 0x00 0xB8 0xFF))) = some ⟨.done, [0xB1]⟩
      ∧ answerOf (exec .csum (holding (wire 0x02 0x02 [0x48, 0x69, 0, 0, 0, 0x99] 0x00 0xB8 0x03)))
          = some ⟨.done, [0xB8]⟩ := by decide

/-- V-C10, V-C11: `LENGTH` 33 and 255, clipped at 32 payload bytes. -/
theorem test_csum_clips :
    answerOf (exec .csum (holding (wire 0x02 0x21 [] 0x01 0x00 0x03))) = some ⟨.done, [0x46]⟩
      ∧ answerOf (exec .csum (holding (wire 0x02 0xFF [] 0x01 0x00 0x03))) = some ⟨.done, [0x24]⟩ := by decide

/-- V-V7, V-V8, V-V9, V-V5: the order of the checks. -/
theorem test_val_order :
    answerOf (exec .val (holding (wire 0xFF 0x02 [0x48, 0x69] 0x00 0xB8 0xFF))) = some ⟨.badStart, []⟩
      ∧ answerOf (exec .val (holding (wire 0x02 0x28 [0x48, 0x69] 0x00 0xB8 0xFF))) = some ⟨.badEnd, []⟩
      ∧ answerOf (exec .val (holding (wire 0x02 0x28 [0x48, 0x69] 0x00 0x00 0x03))) = some ⟨.badLength, []⟩
      ∧ answerOf (exec .val (holding (wire 0x02 0x21 [0x48, 0x69] 0x00 0xB8 0x03)))
          = some ⟨.badLength, []⟩ := by decide

/-- V-V6, V-V12, V-V10, V-V14: expected first; one byte summed; padding not looked at; 32 accepted. -/
theorem test_val_checksum :
    answerOf (exec .val (holding (wire 0x02 0x02 [0x48, 0x69] 0x00 0xB9 0x03)))
        = some ⟨.badChecksum, [0xB8, 0xB9]⟩
      ∧ answerOf (exec .val (holding (wire 0x02 0x01 [0x48, 0x69] 0x00 0xB8 0x03)))
        = some ⟨.badChecksum, [0x4E, 0xB8]⟩
      ∧ answerOf (exec .val (holding (wire 0x02 0x02 [0x48, 0x69, 0, 0, 0, 0x99] 0x00 0xB8 0x03)))
        = some ⟨.valid, []⟩
      ∧ answerOf (exec .val (holding (wire 0x02 0x20 [] 0xFF 0x05 0x03))) = some ⟨.valid, []⟩ := by decide

/-- V-K4: 0xFF + 1 is 0x00. -/
theorem test_corc_wraps :
    frameAfter (exec .corc (holding (wire 0x02 0x01 [0xF9] 0x00 0xFF 0x03)))
      = some (wire 0x02 0x01 [0xF9] 0x00 0x00 0x03) := by decide

/-- V-K14: refused without a frame. -/
theorem test_corc_needs_frame :
    answerOf (exec .corc State.reset) = some ⟨.errNoFrame, []⟩
      ∧ presentAfter (exec .corc State.reset) = some false := by decide

/-- V-K2. -/
theorem test_cors : frameAfter (exec .cors hi) = some (wire 0xFF 0x02 [0x48, 0x69] 0x00 0xB8 0x03) := by decide

/-- V-K3. -/
theorem test_core : frameAfter (exec .core hi) = some (wire 0x02 0x02 [0x48, 0x69] 0x00 0xB8 0xFF) := by decide

/-- P5, step 2: the three draws. -/
theorem test_corr_draws :
    frameAfter (corruptDrawn 0 hi) = some (wire 0x02 0x02 [0x48, 0x69] 0x00 0xB9 0x03)
      ∧ frameAfter (corruptDrawn 1 hi) = some (wire 0xFF 0x02 [0x48, 0x69] 0x00 0xB8 0x03)
      ∧ frameAfter (corruptDrawn 2 hi) = some (wire 0x02 0x02 [0x48, 0x69] 0x00 0xB8 0xFF) := by decide

/-- V-K14 for CORR: `exec` itself, whatever the draw would have been. -/
theorem test_corr_needs_frame : answerOf (exec .corr State.reset) = some ⟨.errNoFrame, []⟩ := by decide

/-- V-W2: an invalid frame is sent as it is. -/
theorem test_txw_invalid_frame :
    answerOf (exec .txw (holding (wire 0xFF 0x02 [0x48, 0x69] 0x00 0xB8 0x03)))
      = some ⟨.done, wire 0xFF 0x02 [0x48, 0x69] 0x00 0xB8 0x03⟩ := by decide

/-- V-W3. -/
theorem test_txw_needs_frame : answerOf (exec .txw State.reset) = some ⟨.errNoFrame, []⟩ := by decide

/-- V-W11: `LENGTH` = 33 is loaded as it is. -/
theorem test_rxw_does_not_validate :
    frameAfter (exec (.rxw (wire 0x02 0x21 [] 0x01 0x00 0x03)) State.reset)
      = some (wire 0x02 0x21 [] 0x01 0x00 0x03) := by decide

/-- V-W5, V-W6: 35 and 37 bytes are refused and the frame is kept. -/
theorem test_rxw_wrong_size :
    answerOf (exec (.rxw (hiBytes.drop 1)) State.reset) = some ⟨.errFraming, []⟩
      ∧ answerOf (exec (.rxw (hiBytes ++ [0x00])) hi) = some ⟨.errFraming, []⟩
      ∧ frameAfter (exec (.rxw (hiBytes ++ [0x00])) hi) = some hiBytes := by decide

/-- V-D6, V-D7: an illegal packet wins over a missing frame. -/
theorem test_step_priority :
    answerOf (step (State.reset.placePacket [0x20, 0x00])) = some ⟨.errIllegal, []⟩
      ∧ answerOf (step (State.reset.placePacket [0x20])) = some ⟨.errNoFrame, []⟩ := by decide

/-- The word of a row is the first command after reset. -/
theorem test_fetch_word_after_reset :
    frameAfter (step (State.reset.withFetchWord 8 0x10)) = some (wire 0x02 0x00 [] 0x00 0x05 0x03)
      ∧ answerOf (step (State.reset.withFetchWord 8 0x50)) = some ⟨.errFraming, []⟩ := by decide

/-- R75: after a reset event the frame is gone. -/
theorem test_reset_event : presentAfter (step (hiWith [.reset])) = some false := rfl

/-- R39 and R53: a line with a comment, a quoted `;`, an assumed draw, a bad byte; a response in text. -/
theorem test_lines :
    assemble "ENC \"a;b\" ; note" = some [0x10, 0x61, 0x3B, 0x62]
      ∧ parseLine "  ; only a comment" = .nothing ∧ parseLine "ENC 4" = .malformed
      ∧ parseLine "VAL 00" = .malformed
      ∧ tokensCommand [.word "CORR".toList, .word [Char.ofNat 123, 'd', '=', '2', Char.ofNat 125]]
          = some (.corr (some 2))
      ∧ responseLine ⟨.badChecksum, [0x1A, 0x1B]⟩ = "-> BAD_CHECKSUM [1A 1B]".toList
      ∧ responseLine ⟨.valid, []⟩ = "-> VALID".toList := by decide

/-! ### Witnesses: the hypotheses of every statement that has some can be met -/

theorem witness_StepRunsDecodedPacket :
    (hiWith [.packet [0x20]]).inbox = .packet [0x20] :: [] ∧ decode [0x20] = .ok .val := ⟨rfl, by decide⟩

theorem witness_FetchWordRunsDecodedCommand : decodeTableWord 8 0x33 = some .corr := by decide

theorem witness_OpcodeFieldsSelectCommand :
    (major 0x30 = 3 ∧ minor 0x30 = 0) ∧ (major 0x31 = 3 ∧ minor 0x31 = 1) ∧ (major 0x32 = 3 ∧ minor 0x32 = 2)
      ∧ (major 0x33 = 3 ∧ minor 0x33 = 3) ∧ (minor 0x10 = 0 ∧ major 0x10 = 1) ∧ (minor 0x20 = 0 ∧ major 0x20 = 2)
      ∧ (minor 0x40 = 0 ∧ major 0x40 = 4) ∧ (minor 0x50 = 0 ∧ major 0x50 = 5)
      ∧ (minor 0x60 = 0 ∧ major 0x60 = 6) := by decide

/-- The reserved opcodes next to each assigned run, and the two ends. -/
theorem witness_ReservedOpcodeIsRefused :
    (∀ op ∈ ([0x00, 0x0F, 0x11, 0x1F, 0x21, 0x2F, 0x34, 0x3F, 0x41, 0x4F, 0x51, 0x5F, 0x61, 0x70, 0xFF] : List Byte),
      op ∉ ([0x10, 0x20, 0x30, 0x31, 0x32, 0x33, 0x40, 0x50, 0x60] : List Byte))
      ∧ (hiWith [.packet [0x34]]).inbox = .packet (0x34 :: []) :: [] := ⟨by decide, rfl⟩

theorem witness_OperandOnOpCommandIsRefused :
    (hiWith [.packet [0x60, 0x00]]).inbox = .packet (0x60 :: [0x00]) :: []
      ∧ (0x60 : Byte) ∈ ([0x20, 0x30, 0x31, 0x32, 0x33, 0x40, 0x60] : List Byte) ∧ ([0x00] : List Byte) ≠ [] :=
  ⟨rfl, by decide, by decide⟩

theorem witness_EmptyPacketGetsNoResponse : (hiWith [.packet []]).inbox = .packet [] :: [] := rfl

theorem witness_IdleStepChangesNothing : hi.inbox = [] := rfl

/-- A message of 32 bytes has its last byte at index 31; one of 31 bytes has padding there; the empty one has
padding at index 0. -/
theorem witness_EncBuildsFrame :
    (31 : Fin 32).val < (List.replicate 32 (0xFF : Byte)).length
      ∧ (List.replicate 31 (0xFF : Byte)).length ≤ (31 : Fin 32).val
      ∧ ([] : List Byte).length ≤ (0 : Fin 32).val := by decide

theorem witness_EncTruncatesSilently : 32 < (List.replicate 33 (0xFF : Byte)).length := by decide

/-- One byte of padding, the last. -/
theorem witness_EncPadsWithZeros :
    exec (.enc (List.replicate 31 0xFF)) State.reset
        = .next ((State.reset.loadFrame (encodeFrame (List.replicate 31 0xFF))).reply ⟨.done, []⟩)
      ∧ (encodeFrame (List.replicate 31 0xFF))[1].toNat ≤ (31 : Fin 32).val := ⟨rfl, by decide⟩

theorem witness_EncodedFramePersists :
    exec (.enc []) State.reset = .next ((State.reset.loadFrame (encodeFrame [])).reply ⟨.done, []⟩)
      ∧ (hiWith [.packet [0x20]]).present = true ∧ EncodedFrame (hiWith [.packet [0x20]]).frame
      ∧ step (hiWith [.packet [0x20]]) = .next (hi.reply ⟨.valid, []⟩)
      ∧ (hiWith [.packet [0x20]]).inbox.head? ≠ some .reset
      ∧ ∀ (c : List Byte) (i : Instr), (hiWith [.packet [0x20]]).inbox.head? = some (.packet c) →
          decode c = .ok i → i ∉ [.corc, .cors, .core, .corr] ∧ ∀ w, i ≠ .rxw w := by
  refine ⟨rfl, rfl, by unfold EncodedFrame ValidFrame; decide, rfl, by decide, ?_⟩
  intro c i hc hd
  have : c = [0x20] := by injection hc with hc; injection hc with hc; exact hc.symm
  subst this
  have : i = .val := by injection hd with hd; exact hd.symm
  subst this
  exact ⟨by decide, fun w h => by cases h⟩

theorem witness_ChecksumIsCarryDroppingSum :
    (hi.frame.toList.take (2 + min hi.frame[1].toNat 32) ++ [hi.frame[35]]).Perm
      (hi.frame.toList.take (2 + min hi.frame[1].toNat 32) ++ [hi.frame[35]]) := List.Perm.refl _

/-- Two different frames: padding 0x00 and padding 0x99. -/
theorem witness_PaddingIsNotSummed :
    let g := (holding (wire 0x02 0x02 [0x48, 0x69] 0x99 0xB8 0x03)).frame
    hi.frame ≠ g ∧ hi.frame[0] = g[0] ∧ hi.frame[1] = g[1] ∧ hi.frame[35] = g[35]
      ∧ (∀ i : Fin 32, i.val < hi.frame[1].toNat → hi.frame[2 + i.val] = g[2 + i.val])
      ∧ hi.frame[34] = g[34] := by decide

theorem witness_LongLengthIsClipped :
    (holding (wire 0x02 0x21 [] 0x01 0x00 0x03)).present = true
      ∧ 32 < (holding (wire 0x02 0x21 [] 0x01 0x00 0x03)).frame[1].toNat := by decide

/-- The three kinds of index, the last summed payload byte of a full frame among them. -/
theorem witness_OneSummedByteChangeIsSeen :
    (0x00 : Byte) ≠ hi.frame[(0 : Fin 36).val] ∧ (0x00 : Byte) ≠ hi.frame[(35 : Fin 36).val]
      ∧ (let f := (holding (wire 0x02 0x20 [] 0xFF 0x05 0x03)).frame
         2 ≤ (33 : Fin 36).val ∧ (33 : Fin 36).val < 34 ∧ (33 : Fin 36).val < 2 + f[1].toNat
          ∧ (0x00 : Byte) ≠ f[(33 : Fin 36).val]) := by decide

theorem witness_SwapOfSummedBytesIsNotSeen :
    (0 : Fin 32).val < hi.frame[1].toNat ∧ (1 : Fin 32).val < hi.frame[1].toNat := by decide

/-- The hypotheses the seven frame-reading commands share: a frame, none, and an operand on their opcode. -/
theorem witness_frame_reading_commands :
    hi.present = true ∧ State.reset.present = false
      ∧ ∀ op : Byte, (hiWith [.packet [op, 0x00]]).inbox = .packet (op :: [0x00]) :: []
          ∧ ([0x00] : List Byte) ≠ [] := ⟨rfl, rfl, fun _ => ⟨rfl, by decide⟩⟩

theorem witness_BadChecksumHoldsExpectedThenActual :
    let s := holding (wire 0x02 0x02 [0x48, 0x69] 0x00 0xB9 0x03)
    exec .val s = .next (s.reply ⟨.badChecksum, [0xB8, 0xB9]⟩)
      ∧ (s.reply ⟨.badChecksum, [0xB8, 0xB9]⟩).outbox = s.outbox ++ [⟨.badChecksum, [0xB8, 0xB9]⟩] :=
  ⟨rfl, rfl⟩

/-- Each command with its kind, on a state with a frame and on one without. -/
theorem witness_CorruptionWritesOneByteOnly :
    (Instr.corr = .corr ∧ kindOfDraw (Config.freeDraw hi.draws) = kindOfDraw (Config.freeDraw hi.draws))
      ∧ (0 : Fin 36) ≠ corruptIndex .checksum ∧ (34 : Fin 36) ≠ corruptIndex .startByte
      ∧ (34 : Fin 36) ≠ corruptIndex .endByte ∧ Instr.corc ≠ .corr
      ∧ hi.present = true ∧ State.reset.present = false :=
  ⟨⟨rfl, rfl⟩, by decide, by decide, by decide, by decide, rfl, rfl⟩

theorem witness_CorruptionIsReportedByVal : exec .val hi = .next (hi.reply ⟨.valid, []⟩) := rfl

theorem witness_TwoCorruptionsReportEarlierCheck :
    exec .val hi = .next (hi.reply ⟨.valid, []⟩)
      ∧ (Instr.corc, Instr.core, Status.badEnd) ∈ [(Instr.corc, Instr.cors, Status.badStart),
        (.core, .cors, .badStart), (.cors, .core, .badStart), (.corc, .core, .badEnd)] := ⟨rfl, by decide⟩

/-- No CORC at all, and two of them before another packet. -/
theorem witness_RepeatedCorcAddsCount :
    (hiWith [.packet [0x20]]).present = true
      ∧ (hiWith [.packet [0x20]]).inbox = List.replicate 0 (.packet [0x30]) ++ [.packet [0x20]]
      ∧ (hiWith [.packet [0x30], .packet [0x30], .packet [0x20]]).inbox
          = List.replicate 2 (.packet [0x30]) ++ [.packet [0x20]] := ⟨rfl, rfl, rfl⟩

/-- The right size, and the sizes next to it. -/
theorem witness_RxwLoadsWireBytes :
    hiBytes.length = 36 ∧ (hiBytes.drop 1).length ≠ 36 ∧ (hiBytes ++ [0x00]).length ≠ 36 := by decide

theorem witness_WrongWireSizeIsRefusedWhole :
    (hiWith [.packet (0x50 :: hiBytes.drop 1)]).inbox = .packet (0x50 :: hiBytes.drop 1) :: []
      ∧ (hiBytes.drop 1).length ≠ 36 := ⟨rfl, by decide⟩

theorem witness_WireRoundTrips : hi.present = true ∧ hiBytes.length = 36 := ⟨rfl, by decide⟩

theorem witness_EveryAnswerIsInTheTable :
    exec (.rxw []) hi = .next (hi.reply ⟨.errFraming, []⟩) := rfl

theorem witness_NoFrameIsRefused :
    Instr.corr ∈ [Instr.csum, .val, .corc, .cors, .core, .corr, .txw] ∧ State.reset.present = false :=
  ⟨by decide, rfl⟩

/-- A refused packet, and one with a verdict. -/
theorem witness_RefusedPacketChangesNothing :
    ([0xFF] : List Byte) ≠ [] ∧ (hiWith [.packet [0xFF]]).inbox = .packet [0xFF] :: []
      ∧ step (hiWith [.packet [0xFF]]) = .next (hi.reply ⟨.errIllegal, []⟩)
      ∧ Status.errIllegal.code.msb = true
      ∧ (let s := holding (wire 0xFF 0x02 [0x48, 0x69] 0x00 0xB8 0x03)
         step (s.placePacket [0x20]) = .next (s.reply ⟨.badStart, []⟩))
      ∧ Status.badStart ∈ [Status.badStart, .badEnd, .badLength, .badChecksum] :=
  ⟨by decide, rfl, rfl, by decide, rfl, by decide⟩

theorem witness_StatusPriority : (hiWith [.packet [0x50]]).inbox = .packet (0x50 :: []) :: [] := rfl

theorem witness_ReadingCommandsChangeNothing :
    Instr.csum ∈ [Instr.csum, .val, .txw] ∧ Instr.val ∈ [Instr.csum, .val, .txw]
      ∧ Instr.txw ∈ [Instr.csum, .val, .txw] := by decide

theorem witness_EncRxwCorsCoreTwiceAsOnceCorcAddsTwo :
    hi.present = true ∧ ∃ t u, exec .cors hi = .next t ∧ exec .cors t = .next u := ⟨rfl, _, _, rfl, rfl⟩

/-- A byte changes, and the flag changes. -/
theorem witness_OnlyListedBytesAreWritten :
    (exec .cors hi = .next ((hi.setFrame (corruptFrame .startByte hi.frame)).reply ⟨.done, []⟩)
        ∧ (corruptFrame .startByte hi.frame)[(0 : Fin 36).val] ≠ hi.frame[(0 : Fin 36).val])
      ∧ (exec (.enc []) State.reset = .next ((State.reset.loadFrame (encodeFrame [])).reply ⟨.done, []⟩)
        ∧ ((State.reset.loadFrame (encodeFrame [])).reply ⟨.done, []⟩).present ≠ State.reset.present) :=
  ⟨⟨rfl, by decide⟩, rfl, by decide⟩

/-- A reset clears the flag, an ENC sets it. -/
theorem witness_PresentChangesOnlyAsListed :
    (∃ t, step (hiWith [.reset]) = .next t ∧ (hiWith [.reset]).present = true ∧ t.present = false)
      ∧ ∃ t, step (State.reset.placePacket [0x10]) = .next t
        ∧ (State.reset.placePacket [0x10]).present = false ∧ t.present = true :=
  ⟨⟨_, rfl, rfl, rfl⟩, _, rfl, rfl, rfl⟩

theorem witness_ResetLeavesNoFrame : needsFrame .corr = true := rfl

theorem witness_ResetEventClearsPresent : (hiWith [.reset]).inbox = .reset :: [] := rfl

/-- The two runs differ: their frames do, and the frame comes to be with an ENC. -/
theorem witness_AbsentFrameIsUnobservable :
    (State.reset.placePacket [0x10]).present = false ∧ (State.reset.placePacket [0x10]).frame ≠ hi.frame
      ∧ presentAfter (step (State.reset.placePacket [0x10])) = some true := ⟨rfl, by decide, by decide⟩

theorem witness_StepKeepsOutboxLegal :
    OutboxLegal (State.reset.placePacket [0x10])
      ∧ ∃ t, step (State.reset.placePacket [0x10]) = .next t ∧ t.outbox ≠ [] :=
  ⟨fun r h => (List.not_mem_nil h).elim, _, rfl, by decide⟩

end Sys2Proof.Tests
end

section
/-! PROOFS. The opcode byte: its two fields (R32), the nine assigned opcodes (R33), and what becomes of the
reserved ones (R37). -/

namespace Sys2Proof.Machine

/-- The nine opcodes of R33, in numeric order; every other opcode is reserved. -/
def assignedOpcodes : List Byte := [0x10, 0x20, 0x30, 0x31, 0x32, 0x33, 0x40, 0x50, 0x60]

/-- Major and minor are the whole opcode (R32). -/
theorem major_append_minor (op : Byte) : major op ++ minor op = op :=
  (BitVec.extractLsb'_append_extractLsb'_eq_extractLsb' rfl).trans BitVec.extractLsb'_eq_self

/-- What the byte with given fields decodes to is what every opcode with these fields decodes to. -/
theorem decode_of_fields {op : Byte} {a b : BitVec 4} {i : Instr} (ha : major op = a) (hb : minor op = b)
    (hi : decode [a ++ b] = .ok i) : decode [op] = .ok i := by
  rw [← major_append_minor op, ha, hb, hi]

/-- A reserved opcode is rejected by its name, whatever the operand (R37). -/
theorem decode_of_not_mem_assignedOpcodes {op : Byte} (h : op ∉ assignedOpcodes) (v : List Byte) :
    decode (op :: v) = .reject (.reservedOpcode op) := by
  simp only [assignedOpcodes, List.mem_cons, List.not_mem_nil, or_false, not_or] at h
  simp only [decode, opCommand, h, if_false]

/-- Only the nine opcodes decode (R33, R37). -/
theorem mem_assignedOpcodes_of_decode {op : Byte} {v : List Byte} {i : Instr} (h : decode (op :: v) = .ok i) :
    op ∈ assignedOpcodes := by
  by_contra hop
  rw [decode_of_not_mem_assignedOpcodes hop] at h
  cases h

/-- The fields of the nine opcodes are those of R32's table. -/
theorem fields_of_mem_assignedOpcodes : ∀ op ∈ assignedOpcodes,
    (major op = 3 ∧ (minor op).toNat ≤ 3) ∨ (minor op = 0 ∧ major op ∈ [1, 2, 4, 5, 6]) := by
  decide

/-- The minors 0 to 3 that major 3 takes, one by one (R32). -/
theorem minor_cases_of_le_three {b : BitVec 4} (h : b.toNat ≤ 3) : b = 0 ∨ b = 1 ∨ b = 2 ∨ b = 3 := by
  bv_omega

/-- Settles O4: an opcode is its two fields, so each clause is one byte decoded; what decodes is one of the nine
opcodes, and conversely every pair of fields R32 assigns stands in a clause. -/
theorem opcodeFieldsSelectCommand : Obligations.OpcodeFieldsSelectCommand := by
  intro op
  refine ⟨⟨fun ⟨_, h⟩ => fields_of_mem_assignedOpcodes op (mem_assignedOpcodes_of_decode h), ?_⟩,
    fun hM hm => decode_of_fields hM hm rfl, fun hM hm => decode_of_fields hM hm rfl,
    fun hM hm => decode_of_fields hM hm rfl, fun hM hm => decode_of_fields hM hm rfl,
    fun hm hM => decode_of_fields hM hm rfl, fun hm hM => decode_of_fields hM hm rfl,
    fun hm hM => decode_of_fields hM hm rfl, fun hm hM => decode_of_fields hM hm rfl,
    fun hm hM => decode_of_fields hM hm rfl⟩
  rintro (⟨hM, hm⟩ | ⟨hm, hM⟩)
  · rcases minor_cases_of_le_three hm with hm | hm | hm | hm <;> exact ⟨_, decode_of_fields hM hm rfl⟩
  · simp only [List.mem_cons, List.not_mem_nil, or_false] at hM
    rcases hM with hM | hM | hM | hM | hM <;> exact ⟨_, decode_of_fields hM hm rfl⟩

/-- Settles O8: a reserved opcode does not decode, and a packet that does not decode is refused
(decision D7). -/
theorem reservedOpcodeIsRefused : Obligations.ReservedOpcodeIsRefused := by
  intro s op v rest hin hop
  have hrej : ∀ i, decode (op :: v) ≠ .ok i := by simp [decode_of_not_mem_assignedOpcodes hop]
  rw [step_cons hin]
  exact runPacket_reject hrej (s.withInbox rest)

end Sys2Proof.Machine
end

section
/-! PROOFS. The checksum (R40 to R43) and CSUM (R44). -/

namespace Sys2Proof.Machine

/-! ### The sum over the payload -/

/-- A sum over the first `n` bytes of a list, as a sum over their indices. -/
theorem sum_map_toNat_take (l : List Byte) {n : Nat} (hn : n ≤ l.length) :
    ((l.take n).map BitVec.toNat).sum = ∑ i ∈ Finset.range n, (l.getD i 0).toNat := by
  induction n with
  | zero => simp
  | succ n ih =>
    have hlt : n < l.length := hn
    rw [List.take_succ_eq_append_getElem hlt, List.map_append, List.sum_append, ih hlt.le,
      Finset.sum_range_succ, List.getD_eq_getElem _ _ hlt]
    simp

/-- `PAYLOAD[i]` = `F[2 + i]` (R11), read with a default. -/
theorem getD_payload (f : Frame) {i : Nat} (h : i < 32) : (payload f).getD i 0 = f.toList.getD (2 + i) 0 := by
  have hp : i < (payload f).length := h.trans_eq (payload_length f).symm
  have hf : 2 + i < f.toList.length := by rw [Vector.length_toList]; omega
  rw [List.getD_eq_getElem _ _ hp, List.getD_eq_getElem _ _ hf, getElem_payload, Vector.getElem_toList]

/-- The payload term of R40, as a sum over indices. -/
theorem sum_take_payload (f : Frame) {n : Nat} (hn : n ≤ 32) :
    (((payload f).take n).map BitVec.toNat).sum = ∑ i ∈ Finset.range n, (f.toList.getD (2 + i) 0).toNat := by
  rw [sum_map_toNat_take _ (by rwa [payload_length])]
  refine Finset.sum_congr rfl fun i hi => ?_
  rw [getD_payload f ((Finset.mem_range.1 hi).trans_le hn)]

theorem summedCount_eq (f : Frame) : summedCount f = min f[1].toNat 32 := rfl

/-- `Csum` with its fields read by index (R40). -/
theorem checksum_eq (f : Frame) : checksum f = BitVec.ofNat 8
    ((f[0].toNat + f[1].toNat + (((payload f).take (summedCount f)).map BitVec.toNat).sum + f[35].toNat)
      % 256) := rfl

/-- With `LENGTH` at 32 or more the summed bytes are the whole payload (R43). -/
theorem take_summedCount_of_le {f : Frame} (h : 32 ≤ f[1].toNat) :
    (payload f).take (summedCount f) = payload f := by
  rw [summedCount_eq, Nat.min_eq_right h, List.take_of_length_le (payload_length f).le]

/-- Frames that agree below `n` in the payload have the same first `n` payload bytes. -/
theorem take_payload_congr {f g : Frame} {n : Nat}
    (h : ∀ i : Fin 32, i.val < n → f[2 + i.val] = g[2 + i.val]) :
    (payload f).take n = (payload g).take n := by
  apply List.ext_getElem (by simp [payload_length])
  intro i hi _
  have hi' : i < n ∧ i < 32 := by simpa [payload_length] using hi
  rw [List.getElem_take, List.getElem_take, getElem_payload, getElem_payload]
  exact h ⟨i, hi'.2⟩ hi'.1

/-- The verdict reads `START`, `LENGTH`, `CHECKSUM`, `END` and `Csum` only (R51). -/
theorem verdict_congr {f g : Frame} (h0 : f[0] = g[0]) (h1 : f[1] = g[1]) (h34 : f[34] = g[34])
    (h35 : f[35] = g[35]) (hc : checksum f = checksum g) : verdict f = verdict g := by
  have hstart : startByte f = startByte g := h0
  have hlength : lengthByte f = lengthByte g := h1
  have hchecksum : checksumByte f = checksumByte g := h34
  have hend : endByte f = endByte g := h35
  rw [verdict, verdict, hstart, hlength, hchecksum, hend, hc]

/-! ### CSUM -/

theorem exec_csum_absent {s : State} (h : s.present = false) :
    exec .csum s = .next (s.reply ⟨.errNoFrame, []⟩) := by
  simp [exec, execCsum, State.withFrame_absent h]

/-- Only the opcodes of ENC and RXW take an operand (R34). -/
theorem decode_operand_ne_ok {op : Byte} {v : List Byte} (h10 : op ≠ 0x10) (h50 : op ≠ 0x50) (hv : v ≠ [])
    (i : Instr) : decode (op :: v) ≠ .ok i := by
  simp only [decode, if_neg h10, if_neg h50, if_neg hv]
  split <;> exact Decoded.noConfusion

/-- A packet with an operand its opcode does not take is refused (R34, R69). -/
theorem step_operand_refused {s : State} {op : Byte} {v : List Byte} {rest : List HostEvent}
    (hin : s.inbox = .packet (op :: v) :: rest) (h10 : op ≠ 0x10) (h50 : op ≠ 0x50) (hv : v ≠ []) :
    step s = .next ((s.withInbox rest).reply ⟨.errIllegal, []⟩) := by
  rw [step_cons hin]
  exact runPacket_reject (decode_operand_ne_ok h10 h50 hv) _

/-! ### The obligations -/

/-- Settles O18: the payload term is turned into a sum over indices; n is at most 32 by definition. -/
theorem checksumFormula : Obligations.ChecksumFormula := by
  intro f
  rw [checksum_eq, summedCount_eq, sum_take_payload f (Nat.min_le_right _ _)]

/-- Settles O20: the summed bytes agree, and the verdict reads the padding through `Csum` only. -/
theorem paddingIsNotSummed : Obligations.PaddingIsNotSummed := by
  intro f g h0 h1 h35 hp
  have hc : checksum f = checksum g := checksum_congr h0 h1 h35 <| take_payload_congr fun i hi =>
    hp i (hi.trans_le (Nat.min_le_left _ _))
  exact ⟨hc, fun h34 => verdict_congr h0 h1 h34 h35 hc⟩

/-- Settles O21: the clip of decision D9 takes the whole payload. -/
theorem longLengthIsClipped : Obligations.LongLengthIsClipped := by
  intro s hp hlong
  rw [exec_csum_present hp, checksum_eq, take_summedCount_of_le hlong.le]
  rfl

/-- Settles O24: 0x60 takes no operand, and a write to `CHECKSUM` leaves `Csum` as it was. -/
theorem csumReportsChecksum : Obligations.CsumReportsChecksum := fun s =>
  ⟨exec_csum_present, exec_csum_absent, checksum_memWrite_checksum s.frame,
    fun _ _ hin hv => step_operand_refused hin (by decide) (by decide) hv⟩

end Sys2Proof.Machine
end

section
/-! PROOFS. ENC: the frame of a message, field by field (R46 to R48). -/

namespace Sys2Proof.Machine

/-! ### The fields of `Encode(M)` -/

/-- `START` is `STX` (R46). -/
@[simp] theorem encodeFrame_start (m : List Byte) : (encodeFrame m)[0] = 0x02 := rfl

/-- `LENGTH` is min(|M|, 32) (R46). -/
theorem encodeFrame_length (m : List Byte) : (encodeFrame m)[1] = BitVec.ofNat 8 (min m.length 32) := rfl

/-- min(|M|, 32) fits in the byte `LENGTH`. -/
theorem toNat_encodeFrame_length (m : List Byte) : (encodeFrame m)[1].toNat = min m.length 32 := by
  rw [encodeFrame_length, BitVec.toNat_ofNat]
  exact Nat.mod_eq_of_lt (by omega)

/-- `PAYLOAD[i]` is the message byte `i`, or zero past the end of the message (R46, R48). -/
theorem encodeFrame_payload (m : List Byte) (i : Fin 32) : (encodeFrame m)[2 + i.val] = m.getD i.val 0 := by
  have hpayload : i.val < (payload (encodeFrame m)).length := i.isLt.trans_eq (payload_length _).symm
  rw [← getElem_payload _ _ hpayload]
  simp only [payload_encodeFrame, getElem_paddedPayload]

/-- `CHECKSUM` is `Csum` of the whole frame (R46). -/
theorem encodeFrame_checksum (m : List Byte) : (encodeFrame m)[34] = checksum (encodeFrame m) :=
  getElem_encodeFrame m 34 (by decide)

/-- `END` is `ETX` (R46). -/
@[simp] theorem encodeFrame_end (m : List Byte) : (encodeFrame m)[35] = 0x03 := by
  rw [getElem_encodeFrame, if_neg (by decide), getElem_unsummedFrame]
  simp [length_paddedPayload, payloadCap, etx]

/-- The summed payload bytes are the message bytes ENC stores: no padding, and nothing past the 32nd (R46, R47). -/
theorem take_summedCount_encodeFrame (m : List Byte) :
    (payload (encodeFrame m)).take (summedCount (encodeFrame m)) = m.take 32 := by
  have hcount : summedCount (encodeFrame m) = (m.take 32).length := by
    rw [summedCount_eq, toNat_encodeFrame_length, List.length_take]; omega
  rw [payload_encodeFrame, hcount]
  exact List.take_left

/-- `CHECKSUM` in closed form: `STX` and `ETX` contribute 5 (R46). -/
theorem encodeFrame_checksum_eq_sum (m : List Byte) : (encodeFrame m)[34]
    = BitVec.ofNat 8 ((5 + min m.length 32 + ((m.take 32).map BitVec.toNat).sum) % 256) := by
  have hstart : (0x02 : Byte).toNat = 2 := rfl
  have hend : (0x03 : Byte).toNat = 3 := rfl
  rw [encodeFrame_checksum, checksum_eq, take_summedCount_encodeFrame, toNat_encodeFrame_length,
    encodeFrame_start, encodeFrame_end, hstart, hend]
  congr 2; omega

/-- ENC reads its message through the bytes it uses and their number only, so the first 32 bytes give the same
frame (R47). -/
theorem encodeFrame_take (m : List Byte) : encodeFrame (m.take 32) = encodeFrame m := by
  have hbytes : messageBytes (m.take 32) = messageBytes m := by simp [messageBytes, payloadCap]
  have hlength : min (m.take 32).length payloadCap = min m.length payloadCap := by
    simp [payloadCap, Nat.min_comm]
  simp only [encodeFrame, unsummedFrame, paddedPayload, messageLength, hbytes, hlength]

/-- A message of zeros, of whatever length, leaves every payload byte zero (R48). -/
theorem encodeFrame_replicate_zero_payload (n : Nat) (i : Fin 32) :
    (encodeFrame (List.replicate n 0x00))[2 + i.val] = 0x00 := by
  rw [encodeFrame_payload, List.getD_eq_getElem?_getD, List.getElem?_getD_replicate_default_eq]

/-! ### The obligations -/

/-- Settles O13: ENC answers `DONE` with `Encode(M)` loaded; each clause about the frame is the lemma of its field. -/
theorem encBuildsFrame : Obligations.EncBuildsFrame := by
  intro s m
  exact ⟨rfl, _, exec_enc m s, rfl, encodeFrame_start m, encodeFrame_length m,
    fun i h => (encodeFrame_payload m i).trans (List.getD_eq_getElem m 0 h),
    fun i h => (encodeFrame_payload m i).trans (List.getD_eq_default m 0 h),
    encodeFrame_checksum_eq_sum m, encodeFrame_checksum m, encodeFrame_end m, rfl, rfl, rfl, rfl⟩

/-- Settles O14: the first 32 bytes give the same frame; past 32 bytes `LENGTH` is at its cap, and no payload byte is
padding. -/
theorem encTruncatesSilently : Obligations.EncTruncatesSilently := by
  intro s m hm
  have hlength : (encodeFrame m)[1] = 0x20 := by rw [encodeFrame_length, Nat.min_eq_right hm.le]; rfl
  refine ⟨by rw [exec_enc, exec_enc, encodeFrame_take], _, exec_enc m s, hlength, fun i => ?_, rfl⟩
  have hi : i.val < m.length := i.isLt.trans hm
  calc m[i.val]? = some m[i.val] := List.getElem?_eq_getElem hi
    _ = some (encodeFrame m)[2 + i.val] := by rw [encodeFrame_payload, List.getD_eq_getElem m 0 hi]

/-- Settles O15: an index from `LENGTH` on lies past the end of the message; three zeros and none have all-zero
payloads, and differ in the number of bytes counted. -/
theorem encPadsWithZeros : Obligations.EncPadsWithZeros := by
  refine ⟨fun s t m h i hi => ?_, fun s => ?_⟩
  · cases h
    have hpast : m.length ≤ i.val := by
      have hmin : min m.length 32 ≤ i.val := (toNat_encodeFrame_length m).symm.trans_le hi
      omega
    exact (encodeFrame_payload m i).trans (List.getD_eq_default m 0 hpast)
  · exact ⟨_, _, exec_enc _ s, exec_enc _ s, encodeFrame_length _, encodeFrame_checksum_eq_sum _,
      encodeFrame_length _, encodeFrame_checksum_eq_sum _, fun i =>
        ⟨encodeFrame_replicate_zero_payload 3 i, encodeFrame_replicate_zero_payload 0 i⟩⟩

end Sys2Proof.Machine
end

section
/-! PROOFS. VAL: the four checks in order (R51), and the two bytes of a checksum mismatch (R54). -/

namespace Sys2Proof.Machine

/-! ### The verdict -/

/-- `Valid(F)` with its fields read by index (R51). -/
theorem verdict_eq (f : Frame) : verdict f =
    if f[0] ≠ 0x02 then ⟨.badStart, []⟩
    else if f[35] ≠ 0x03 then ⟨.badEnd, []⟩
    else if 32 < f[1].toNat then ⟨.badLength, []⟩
    else if checksum f ≠ f[34] then ⟨.badChecksum, [checksum f, f[34]]⟩
    else ⟨.valid, []⟩ := rfl

/-- A mismatch is reported only where there is one, with the expected byte before the actual one (R54). -/
theorem verdict_badChecksum {f : Frame} {d : List Byte} (h : verdict f = ⟨.badChecksum, d⟩) :
    d = [checksum f, f[34]] ∧ checksum f ≠ f[34] := by
  rcases verdict_cases f with ⟨_, hv⟩ | ⟨_, _, hv⟩ | ⟨_, _, _, hv⟩ | ⟨_, _, _, hne, hv⟩ | ⟨_, _, _, _, hv⟩ <;>
    cases hv.symm.trans h
  exact ⟨rfl, hne⟩

/-- `Result.valid` is true for `VALID` alone (R51). -/
theorem verdictValid_eq_some_true_iff (st : Status) : verdictValid st = some true ↔ st = .valid := by
  cases st <;> decide

/-- `Result.valid` is false for the four failures (R51). -/
theorem verdictValid_eq_some_false_iff (st : Status) :
    verdictValid st = some false ↔ st ∈ [.badStart, .badEnd, .badLength, .badChecksum] := by
  cases st <;> decide

/-! ### VAL -/

/-- VAL answers the verdict on the current frame (R51, R52). -/
theorem exec_val_eq (s : State) : exec .val s = s.withFrame fun f => .next (s.reply (verdict f)) := rfl

theorem exec_val_absent {s : State} (h : s.present = false) :
    exec .val s = .next (s.reply ⟨.errNoFrame, []⟩) := by
  rw [exec_val_eq, State.withFrame_absent h]

/-- The inversion lemma of VAL: the verdict on the frame, or the refusal without one. -/
theorem exec_val_cases {s t : State} (h : exec .val s = .next t) :
    (s.present = true ∧ t = s.reply (verdict s.frame))
      ∨ (s.present = false ∧ t = s.reply ⟨.errNoFrame, []⟩) := by
  rw [exec_val_eq] at h
  exact (State.withFrame_cases h).imp_left fun ⟨hp, ht⟩ => ⟨hp, by cases ht; rfl⟩

/-- The response added is the one the record of responses ends with. -/
theorem State.reply_outbox_inj {s : State} {r r' : Response}
    (h : (s.reply r).outbox = s.outbox ++ [r']) : r = r' :=
  List.singleton_inj.1 (List.append_cancel_left h)

/-- The wire bytes by index (R21). -/
theorem getElem?_wireBytes (f : Frame) {i : Nat} (hi : i < 36) : (wireBytes f)[i]? = some f[i] := by
  rw [List.getElem?_eq_getElem (hi.trans_eq (wireBytes_length f).symm)]
  rfl

/-! ### The obligations -/

/-- Settles O27: VAL's response is the verdict on a present frame, since the refusal has another status; the
verdict names both bytes (decision D11), and CSUM and TXW answer on the same frame. -/
theorem badChecksumHoldsExpectedThenActual : Obligations.BadChecksumHoldsExpectedThenActual := by
  intro s t d h hout
  rcases exec_val_cases h with ⟨hp, rfl⟩ | ⟨_, rfl⟩
  · obtain ⟨hd, hne⟩ := verdict_badChecksum (State.reply_outbox_inj hout)
    exact ⟨hd, hne, exec_csum_present hp, wireBytes s.frame, exec_txw_present hp,
      getElem?_wireBytes s.frame (by decide)⟩
  · cases State.reply_outbox_inj hout

/-- Settles O25: the verdict by index is the chain of checks, and 0x20 takes no operand. -/
theorem valReportsFirstFailingCheck : Obligations.ValReportsFirstFailingCheck :=
  ⟨fun st => ⟨verdictValid_eq_some_true_iff st, verdictValid_eq_some_false_iff st⟩, fun s =>
    ⟨fun hp => by rw [exec_val_present hp, verdict_eq], exec_val_absent,
      fun _ _ hin hv => step_operand_refused hin (by decide) (by decide) hv⟩⟩

end Sys2Proof.Machine
end

section
/-! PROOFS. CORC, CORS and CORE (R56 to R58): what the three share, and the one byte each writes. -/

namespace Sys2Proof.Machine

/-! ### The byte written -/

/-- A byte plus 1 is the sum over the naturals reduced modulo `CSUM_MOD`: the carry is discarded (R41). -/
theorem byte_add_one_eq (b : Byte) : b + 1 = BitVec.ofNat 8 ((b.toNat + 1) % 256) :=
  BitVec.eq_of_toNat_eq (by simp)

theorem corruptFrame_checksum (f : Frame) :
    corruptFrame .checksum f = f.set 34 (BitVec.ofNat 8 ((f[34].toNat + 1) % 256)) := by
  rw [← byte_add_one_eq]
  rfl

theorem corruptFrame_startByte (f : Frame) : corruptFrame .startByte f = f.set 0 0xFF := rfl

theorem corruptFrame_endByte (f : Frame) : corruptFrame .endByte f = f.set 35 0xFF := rfl

/-! ### The commands -/

theorem exec_corc (s : State) : exec .corc s = corruptAs .checksum s := rfl

theorem exec_cors (s : State) : exec .cors s = corruptAs .startByte s := rfl

theorem exec_core (s : State) : exec .core s = corruptAs .endByte s := rfl

theorem corruptAs_absent {s : State} (h : s.present = false) (k : CorruptKind) :
    corruptAs k s = .next (s.reply ⟨.errNoFrame, []⟩) := by
  rw [corruptAs, State.withFrame_absent h]

/-- What a command of a given corruption kind does (R60): `g` is the current frame corrupted, and `op` stands for
the command's opcode, of which only that it takes no operand matters. -/
theorem corruption_command_spec {i : Instr} {k : CorruptKind} {s : State} {g : Frame} {op : Byte}
    (hi : exec i s = corruptAs k s) (hg : corruptFrame k s.frame = g) (h10 : op ≠ 0x10) (h50 : op ≠ 0x50) :
    (s.present = true → exec i s = .next ((s.setFrame g).reply ⟨.done, []⟩))
    ∧ (s.present = false → exec i s = .next (s.reply ⟨.errNoFrame, []⟩))
    ∧ (∀ (v : List Byte) (rest : List HostEvent), s.inbox = .packet (op :: v) :: rest → v ≠ [] →
        step s = .next ((s.withInbox rest).reply ⟨.errIllegal, []⟩)) := by
  refine ⟨fun hp => ?present, fun hp => ?absent, fun v rest hin hv => ?operand⟩
  case present => rw [hi, corruptAs_present hp, hg]
  case absent => rw [hi, corruptAs_absent hp]
  case operand => exact step_operand_refused hin h10 h50 hv

/-! ### The obligations -/

/-- Settles O29: CORC is the checksum corruption, whose 8-bit increment is the sum modulo 256. -/
theorem corcAddsOneToChecksum : Obligations.CorcAddsOneToChecksum := fun s =>
  corruption_command_spec (exec_corc s) (corruptFrame_checksum s.frame) (by decide) (by decide)

/-- Settles O30: CORS is the start byte corruption. -/
theorem corsSetsStartByte : Obligations.CorsSetsStartByte := fun s =>
  corruption_command_spec (exec_cors s) (corruptFrame_startByte s.frame) (by decide) (by decide)

/-- Settles O31: CORE is the end byte corruption. -/
theorem coreSetsEndByte : Obligations.CoreSetsEndByte := fun s =>
  corruption_command_spec (exec_core s) (corruptFrame_endByte s.frame) (by decide) (by decide)

end Sys2Proof.Machine
end

section
/-! PROOFS. TXW and RXW, the wire commands (R62 to R64). -/

namespace Sys2Proof.Machine

/-! ### The commands -/

theorem exec_txw_absent {s : State} (h : s.present = false) :
    exec .txw s = .next (s.reply ⟨.errNoFrame, []⟩) := by
  simp [exec, execTxw, State.withFrame_absent h]

/-- Every operand is legal for opcode 0x50, of whatever size (R34, R63). -/
theorem decode_rxw (w : List Byte) : decode (0x50 :: w) = .ok (.rxw w) := rfl

/-- Wire byte `k` becomes `F[k]` (R63). -/
theorem getElem?_frameOfWire {w : List Byte} (h : w.length = 36) (k : Fin 36) :
    w[k.val]? = some (frameOfWire w h)[k.val] := by
  rw [getElem_frameOfWire, List.getElem?_eq_getElem]

/-- An RXW packet at the head of the inbox is executed, whatever the size of its operand. -/
theorem step_rxw {s : State} {w : List Byte} {rest : List HostEvent}
    (hin : s.inbox = .packet (0x50 :: w) :: rest) : step s = exec (.rxw w) (s.withInbox rest) := by
  rw [step_cons hin]
  exact runPacket_ok (decode_rxw w) _

/-! ### The obligations -/

/-- Settles O37: the data are the wire bytes of the frame, and 0x40 takes no operand. -/
theorem txwReportsAllBytes : Obligations.TxwReportsAllBytes := fun s =>
  ⟨fun hp => ⟨wireBytes s.frame, exec_txw_present hp, wireBytes_length s.frame,
      fun k => getElem?_wireBytes s.frame k.isLt⟩,
    exec_txw_absent,
    fun _ _ hin hv => step_operand_refused hin (by decide) (by decide) hv⟩

/-- Settles O38: 36 bytes are loaded as they stand, and only a size other than 36 is refused. -/
theorem rxwLoadsWireBytes : Obligations.RxwLoadsWireBytes := fun s w =>
  ⟨decode_rxw w,
    fun h => ⟨_, exec_rxw_of_length h s, rfl, getElem?_frameOfWire h, rfl, rfl, rfl, rfl⟩,
    fun h => exec_rxw_of_ne h s⟩

/-- Settles O39: the packet decodes, so the refusal is RXW's own, and it keeps the frame (decision D13). -/
theorem wrongWireSizeIsRefusedWhole : Obligations.WrongWireSizeIsRefusedWhole := by
  intro s w rest hin hw
  rw [step_rxw hin]
  exact exec_rxw_of_ne hw (s.withInbox rest)

end Sys2Proof.Machine
end

section
/-! PROOFS. Refusals and verdicts (R68, R69): what a non-empty packet is answered with, and when that answer may
come with a change of the state. -/

namespace Sys2Proof.Machine

/-! ### The three kinds of answer -/

/-- How a packet is answered: only a command that completes may change the state, and only a refusal sets bit 7 of
the status (R36, R69). -/
inductive Answer (s t : State) : Prop where
  /-- Any refusal of R68. -/
  | refuses (st : Status) (ht : t = s.reply ⟨st, []⟩)
  /-- VAL with a frame, whatever the verdict. -/
  | judges (ht : t = s.reply (verdict s.frame))
  /-- Every other command that is not refused; `u` is the state it leaves, before the response. -/
  | completes (u : State) (d : List Byte) (hu : u.outbox = s.outbox) (ht : t = u.reply ⟨.done, d⟩)

/-- The inversion lemma of CSUM: the checksum, or the refusal without a frame (R44). -/
theorem exec_csum_cases {s t : State} (h : exec .csum s = .next t) :
    (s.present = true ∧ t = s.reply ⟨.done, [checksum s.frame]⟩)
      ∨ (s.present = false ∧ t = s.reply ⟨.errNoFrame, []⟩) :=
  (State.withFrame_cases (k := fun f => s.respond .done [checksum f]) h).imp_left
    fun ⟨hp, ht⟩ => ⟨hp, by cases ht; rfl⟩

/-- The inversion lemma of TXW: the wire bytes, or the refusal without a frame (R62). -/
theorem exec_txw_cases {s t : State} (h : exec .txw s = .next t) :
    (s.present = true ∧ t = s.reply ⟨.done, wireBytes s.frame⟩)
      ∨ (s.present = false ∧ t = s.reply ⟨.errNoFrame, []⟩) :=
  (State.withFrame_cases (k := fun f => s.respond .done (wireBytes f)) h).imp_left
    fun ⟨hp, ht⟩ => ⟨hp, by cases ht; rfl⟩

/-- The inversion lemma of a command that needs a frame gives its answer, once the answer with a frame is known. -/
theorem Answer.of_frame_cases {s t u : State}
    (h : (s.present = true ∧ t = u) ∨ (s.present = false ∧ t = s.reply ⟨.errNoFrame, []⟩))
    (hframe : t = u → Answer s t) : Answer s t := by
  rcases h with ⟨_, ht⟩ | ⟨_, ht⟩
  · exact hframe ht
  · exact .refuses _ ht

/-- Every command is answered in one of the three ways. -/
theorem exec_answer {i : Instr} {s t : State} (h : exec i s = .next t) : Answer s t := by
  cases i with
  | enc m => cases h; exact .completes (s.loadFrame (encodeFrame m)) _ rfl rfl
  | rxw w =>
    by_cases hw : w.length = 36
    · rw [exec_rxw_of_length hw] at h; cases h
      exact .completes (s.loadFrame (frameOfWire w hw)) _ rfl rfl
    · rw [exec_rxw_of_ne hw] at h; cases h; exact .refuses _ rfl
  | val => exact .of_frame_cases (exec_val_cases h) .judges
  | csum => exact .of_frame_cases (exec_csum_cases h) (.completes s _ rfl)
  | txw => exact .of_frame_cases (exec_txw_cases h) (.completes s _ rfl)
  | corc | cors | core => exact .of_frame_cases (corruptAs_cases h) (.completes (s.setFrame _) _ rfl)
  | corr => exact .of_frame_cases (corruptDrawn_cases h) (.completes (s.setFrame _).countDraw _ rfl)

/-- A non-empty packet is answered in one of the three ways; one that does not decode is refused (R37, R70). -/
theorem runPacket_answer {c : List Byte} {s t : State} (hc : c ≠ []) (h : runPacket c s = .next t) :
    Answer s t := by
  obtain ⟨op, v, rfl⟩ := List.exists_cons_of_ne_nil hc
  by_cases hdec : ∃ i, decode (op :: v) = .ok i
  · obtain ⟨i, hi⟩ := hdec
    rw [runPacket_ok hi] at h
    exact exec_answer h
  · rw [runPacket_reject (not_exists.1 hdec)] at h
    cases h
    exact .refuses _ rfl

/-- A verdict, failing or not, is no refusal (R36, R51). -/
theorem msb_code_verdict (f : Frame) : (verdict f).status.code.msb = false := by
  rcases verdict_cases f with ⟨_, hv⟩ | ⟨_, _, hv⟩ | ⟨_, _, _, hv⟩ | ⟨_, _, _, _, hv⟩ | ⟨_, _, _, _, hv⟩ <;>
    simp only [hv, Status.code] <;> decide

/-! ### The obligation -/

/-- Settles O44: a refusal has empty data and leaves the state as the verdict does, a verdict has bit 7 clear, and
`DONE`, the one status that may come with a change, is neither (decision D26). -/
theorem refusedPacketChangesNothing : Obligations.RefusedPacketChangesNothing := by
  intro s t c rest hc hin h
  rw [step_cons hin] at h
  cases runPacket_answer hc h with
  | refuses st ht => exact ⟨⟨st, []⟩, by rw [ht]; rfl, fun _ => ⟨rfl, ht⟩, fun _ => ht⟩
  | judges ht =>
    refine ⟨verdict s.frame, by rw [ht]; rfl, fun hmsb => ?_, fun _ => ht⟩
    exact absurd ((msb_code_verdict s.frame).symm.trans hmsb) Bool.false_ne_true
  | completes u d hu ht =>
    have houtbox : t.outbox = s.outbox ++ [⟨.done, d⟩] := by rw [ht, State.reply_outbox, hu]; rfl
    exact ⟨⟨.done, d⟩, houtbox, fun hmsb => absurd hmsb (by decide : ¬ Status.done.code.msb = true),
      fun hmem => absurd hmem (by decide : Status.done ∉ [.badStart, .badEnd, .badLength, .badChecksum])⟩

end Sys2Proof.Machine
end

section
/-! PROOFS. The packet: decode and encode agree (R31, R33, R34, R38), which packets are well formed, and the packets
of written lines (R39). -/

namespace Sys2Proof.Machine

/-! ### Decode and encode -/

/-- The statement about every packet's form, assembled from its one lemma per command. -/
theorem packetForm (i : Instr) : Laws.PacketForm.Statement i := by
  cases i with
  | enc m => exact Laws.PacketForm.enc m
  | val => exact Laws.PacketForm.val
  | corc => exact Laws.PacketForm.corc
  | cors => exact Laws.PacketForm.cors
  | core => exact Laws.PacketForm.core
  | corr => exact Laws.PacketForm.corr
  | txw => exact Laws.PacketForm.txw
  | rxw w => exact Laws.PacketForm.rxw w
  | csum => exact Laws.PacketForm.csum

@[simp] theorem decode_encode (i : Instr) : decode (encode i) = .ok i := (packetForm i).1

theorem wellFormed_encode (i : Instr) : Packet.wellFormed (encode i) = true := (packetForm i).2.1

/-- A command of format `OP` is its opcode alone (R33, R34). -/
theorem encode_of_opCommand {op : Byte} {i : Instr} (h : opCommand op = some i) : encode i = [op] := by
  unfold opCommand at h
  split_ifs at h with hop hop hop hop hop hop hop <;> cases h <;> rw [hop] <;> rfl

/-- What decodes is the encoding of what it decodes to: the operand is kept whole, or there is none. -/
theorem encode_of_decode {c : List Byte} {i : Instr} (h : decode c = .ok i) : encode i = c := by
  cases c with
  | nil => cases h
  | cons op v =>
    simp only [decode] at h
    split at h
    next hop => cases h; rw [hop]; rfl
    next =>
      split at h
      next hop => cases h; rw [hop]; rfl
      next =>
        split at h
        next i' hi =>
          split at h
          next hv => cases h; rw [hv]; exact encode_of_opCommand hi
          next => cases h
        next => cases h

/-- Settles O6: decode reads every encoding back, and accepts nothing else. -/
theorem decodeIffEncoded : Obligations.DecodeIffEncoded := fun _ i =>
  ⟨fun h => (encode_of_decode h).symm, fun h => h ▸ decode_encode i⟩

/-! ### Well-formed packets -/

/-- The seven opcodes of format `OP` each have a command. -/
theorem decode_of_mem_opOpcodes : ∀ op ∈ Packet.opOpcodes, ∃ i, decode [op] = .ok i := by
  simp only [Packet.opOpcodes, List.forall_mem_cons]
  exact ⟨⟨_, rfl⟩, ⟨_, rfl⟩, ⟨_, rfl⟩, ⟨_, rfl⟩, ⟨_, rfl⟩, ⟨_, rfl⟩, ⟨_, rfl⟩, List.forall_mem_nil _⟩

/-- The two opcodes of format `OPV` have a command for every operand. -/
theorem decode_of_mem_opvOpcodes (v : List Byte) : ∀ op ∈ Packet.opvOpcodes, ∃ i, decode (op :: v) = .ok i := by
  simp only [Packet.opvOpcodes, List.forall_mem_cons]
  exact ⟨⟨_, rfl⟩, ⟨_, rfl⟩, List.forall_mem_nil _⟩

/-- The three checks, as statements about the opcode and the operand. -/
theorem wellFormed_cons_iff (op : Byte) (v : List Byte) : Packet.wellFormed (op :: v) = true ↔
    (op ∈ Packet.opvOpcodes ∨ op ∈ Packet.opOpcodes) ∧ (op ∉ Packet.opOpcodes ∨ v = []) := by
  simp [Packet.wellFormed, Packet.hasOpcode, Packet.opcodeAssigned, Packet.operandAllowed]

/-- A well-formed packet decodes: an opcode of format `OPV` takes its operand, one of format `OP` has none. -/
theorem decode_of_wellFormed {c : List Byte} (h : Packet.wellFormed c = true) : ∃ i, decode c = .ok i := by
  cases c with
  | nil => cases h
  | cons op v =>
    obtain ⟨hopv | hop, hoperand⟩ := (wellFormed_cons_iff op v).1 h
    · exact decode_of_mem_opvOpcodes v op hopv
    · obtain rfl : v = [] := hoperand.resolve_left (not_not_intro hop)
      exact decode_of_mem_opOpcodes op hop

/-- Settles O7: what decodes is an encoding, and every encoding is well formed. -/
theorem wellFormedPacketsDecode : Obligations.WellFormedPacketsDecode := fun _ =>
  ⟨fun ⟨i, h⟩ => encode_of_decode h ▸ wellFormed_encode i, decode_of_wellFormed⟩

/-- Settles O9: none of the seven opcodes is ENC's or RXW's, so none takes an operand (decision D8). -/
theorem operandOnOpCommandIsRefused : Obligations.OperandOnOpCommandIsRefused := by
  intro s op v rest hin hop hv
  have hne : op ≠ 0x10 ∧ op ≠ 0x50 := by
    constructor <;> rintro rfl <;> exact absurd hop (by decide)
  exact step_operand_refused hin hne.1 hne.2 hv

/-- Settles O3: the 256 one-byte packets are enumerated. -/
theorem opcodeMapIsExact : Obligations.OpcodeMapIsExact := by
  unfold Obligations.OpcodeMapIsExact
  decide

/-- Settles O5: each packet is decoded. -/
theorem specWordsDecode : Obligations.SpecWordsDecode := by
  unfold Obligations.SpecWordsDecode
  decide

/-- Settles O12: each line is read. -/
theorem writtenLinesGiveTheirPackets : Obligations.WrittenLinesGiveTheirPackets := by
  unfold Obligations.WrittenLinesGiveTheirPackets
  decide

/-! ### The step on a packet -/

/-- A step takes the packet at the head of the inbox. -/
theorem step_packet {s : State} {c : List Byte} {rest : List HostEvent} (hin : s.inbox = .packet c :: rest) :
    step s = runPacket c (s.withInbox rest) := step_cons hin

/-- Settles O1: the packet is taken off and run as what it decodes to. -/
theorem stepRunsDecodedPacket : Obligations.StepRunsDecodedPacket := by
  intro s c i rest hin hdec
  rw [step_packet hin]
  exact runPacket_ok hdec _

/-- The inverse of `decodeTableWord`: the word's packet decodes. -/
theorem decode_of_decodeTableWord {nbits w : Nat} {i : Instr} (h : decodeTableWord nbits w = some i) :
    decode (packetOfWord nbits w) = .ok i := by
  unfold decodeTableWord at h
  split at h
  next hdec => cases h; exact hdec
  next => cases h

/-- Settles O2: the placed packet is the head of the inbox, and taking it off gives back the state. -/
theorem fetchWordRunsDecodedCommand : Obligations.FetchWordRunsDecodedCommand := fun s _ _ _ hdec =>
  stepRunsDecodedPacket (s.withFetchWord _ _) _ _ s.inbox rfl (decode_of_decodeTableWord hdec)

/-- Settles O10: the empty sequence is no packet, so nothing runs (decision D24). -/
theorem emptyPacketGetsNoResponse : Obligations.EmptyPacketGetsNoResponse := by
  intro s rest hin
  rw [step_packet hin]
  exact runPacket_empty _

/-- Settles O11: with nothing sent the block idles. -/
theorem idleStepChangesNothing : Obligations.IdleStepChangesNothing := fun _ => step_nil

end Sys2Proof.Machine
end

section
/-! PROOFS. What each command answers (R35, R68), that every step answers (R67), and the order of the refusals
(R70). -/

namespace Sys2Proof.Machine

/-! ### Statuses -/

/-- Bit 7 is set for the three refusals alone (R36). -/
theorem isRefusal_iff (a : Status) :
    a.isRefusal = true ↔ a = .errIllegal ∨ a = .errNoFrame ∨ a = .errFraming := by
  cases a <;> decide

/-- No two statuses share a code (R36). -/
theorem code_injective (a b : Status) : a.code = b.code → a = b := by
  cases a <;> cases b <;> decide

/-- Settles O41: the codes are read off, and both clauses about all statuses hold by cases. -/
theorem statusCodesAreTheNine : Obligations.StatusCodesAreTheNine :=
  ⟨rfl, rfl, rfl, rfl, rfl, rfl, rfl, rfl, rfl, fun a => ⟨isRefusal_iff a, code_injective a⟩⟩

/-- Settles O28: the literal texts, and two values written out. -/
theorem reasonTextsByStatus : Obligations.ReasonTextsByStatus := by
  unfold Obligations.ReasonTextsByStatus
  decide

/-! ### Without a frame -/

/-- Without a frame a command that needs one is refused (R13, R68). -/
theorem exec_absent {i : Instr} {s : State} (hi : needsFrame i = true) (h : s.present = false) :
    exec i s = .next (s.reply ⟨.errNoFrame, []⟩) := by
  cases i with
  | enc m => cases hi
  | rxw w => cases hi
  | val => exact exec_val_absent h
  | csum => exact exec_csum_absent h
  | txw => exact exec_txw_absent h
  | corc => exact corruptAs_absent h _
  | cors => exact corruptAs_absent h _
  | core => exact corruptAs_absent h _
  | corr => rw [exec, execCorr, corruptDrawn, State.withFrame_absent h]

/-- Settles O43: the seven commands are those that need a frame (decision D3). -/
theorem noFrameIsRefused : Obligations.NoFrameIsRefused := by
  intro s i hi h
  have hneeds : ∀ j ∈ [Instr.csum, .val, .corc, .cors, .core, .corr, .txw], needsFrame j = true := by decide
  exact exec_absent (hneeds i hi) h

/-- Settles O50: reset leaves no frame, so each command that needs one is refused. -/
theorem resetLeavesNoFrame : Obligations.ResetLeavesNoFrame :=
  ⟨rfl, rfl, rfl, fun _ hi => exec_absent hi rfl⟩

/-! ### The one response of a command -/

/-- The row of R35 and R68 that a command's response is from, with the condition that selects the row. -/
inductive AnswerRow (i : Instr) (s : State) (r : Response) : Prop where
  /-- `ERR_NO_FRAME` (R13). -/
  | noFrame (hi : needsFrame i = true) (hp : s.present = false) (hr : r = ⟨.errNoFrame, []⟩)
  /-- `ERR_FRAMING` (R64). -/
  | framing (w : List Byte) (hi : i = .rxw w) (hw : w.length ≠ 36) (hr : r = ⟨.errFraming, []⟩)
  /-- Not refused. -/
  | completes (hframe : needsFrame i = true → s.present = true) (hsize : ∀ w, i = .rxw w → w.length = 36)
      (hr : completes i r)

/-- VAL's response is a verdict with the data its status has (R51, R54). -/
theorem completes_verdict (f : Frame) : completes .val (verdict f) := by
  rcases verdict_cases f with ⟨_, hv⟩ | ⟨_, _, hv⟩ | ⟨_, _, _, hv⟩ | ⟨_, _, _, hne, hv⟩ | ⟨_, _, _, _, hv⟩ <;>
    rw [hv]
  case inr.inr.inr.inl => exact .inl ⟨rfl, _, _, hne, rfl⟩
  all_goals exact .inr ⟨by simp, rfl⟩

/-- A command whose frame and operand size are right is answered from its own row. -/
theorem exec_completes {i : Instr} {s : State} (hframe : needsFrame i = true → s.present = true)
    (hsize : ∀ w, i = .rxw w → w.length = 36) :
    ∃ t r, exec i s = .next t ∧ t.outbox = s.outbox ++ [r] ∧ completes i r := by
  cases i with
  | enc m => exact ⟨_, _, exec_enc m s, rfl, rfl, rfl⟩
  | rxw w => exact ⟨_, _, exec_rxw_of_length (hsize w rfl) s, rfl, rfl, rfl⟩
  | val => exact ⟨_, _, exec_val_present (hframe rfl), rfl, completes_verdict s.frame⟩
  | csum => exact ⟨_, _, exec_csum_present (hframe rfl), rfl, rfl, rfl⟩
  | txw => exact ⟨_, _, exec_txw_present (hframe rfl), rfl, rfl, wireBytes_length s.frame⟩
  | corc => exact ⟨_, _, corruptAs_present (hframe rfl) _, rfl, rfl, rfl⟩
  | cors => exact ⟨_, _, corruptAs_present (hframe rfl) _, rfl, rfl, rfl⟩
  | core => exact ⟨_, _, corruptAs_present (hframe rfl) _, rfl, rfl, rfl⟩
  | corr => exact ⟨_, _, corruptDrawn_present (hframe rfl) _, rfl, rfl, rfl⟩

/-- Every command answers a next state, and adds exactly one response, from one of its rows. -/
theorem exec_answerRow (i : Instr) (s : State) :
    ∃ t r, exec i s = .next t ∧ t.outbox = s.outbox ++ [r] ∧ AnswerRow i s r := by
  by_cases hframe : needsFrame i = true → s.present = true
  · by_cases hsize : ∀ w, i = .rxw w → w.length = 36
    · obtain ⟨t, r, hx, hout, hr⟩ := exec_completes hframe hsize
      exact ⟨t, r, hx, hout, .completes hframe hsize hr⟩
    · push Not at hsize
      obtain ⟨w, rfl, hw⟩ := hsize
      exact ⟨_, _, exec_rxw_of_ne hw s, rfl, .framing w rfl hw rfl⟩
  · obtain ⟨hi, hp⟩ := Classical.not_imp.1 hframe
    have hp : s.present = false := Bool.eq_false_iff.2 hp
    exact ⟨_, _, exec_absent hi hp, rfl, .noFrame hi hp rfl⟩

theorem AnswerRow.mayAnswer {i : Instr} {s : State} {r : Response} (h : AnswerRow i s r) : mayAnswer i r := by
  cases h with
  | noFrame hi hp hr => exact .inr (.inl ⟨hi, hr⟩)
  | framing w hi hw hr => exact .inr (.inr ⟨w, hi, hw, hr⟩)
  | completes hframe hsize hr => exact .inl hr

/-- What a command answers when it is not refused is no refusal. -/
theorem isRefusal_of_completes {i : Instr} {r : Response} (h : completes i r) : r.status.isRefusal = false := by
  cases i with
  | val =>
    rcases h with ⟨hst, _⟩ | ⟨hst | hst | hst | hst, _⟩ <;> rw [hst] <;> rfl
  | enc m | rxw w | corc | cors | core | corr | txw | csum => rw [h.1]; rfl

/-- The status of a response that is no refusal is none of the three. -/
theorem status_ne_of_completes {i : Instr} {r : Response} (h : completes i r) :
    r.status ≠ .errIllegal ∧ r.status ≠ .errNoFrame ∧ r.status ≠ .errFraming := by
  have hnot : ¬ r.status.isRefusal = true := by rw [isRefusal_of_completes h]; decide
  simpa only [isRefusal_iff, not_or] using hnot

/-- A packet that decodes is not illegal. -/
theorem AnswerRow.status_ne_errIllegal {i : Instr} {s : State} {r : Response} (h : AnswerRow i s r) :
    r.status ≠ .errIllegal := by
  cases h with
  | noFrame hi hp hr => rw [hr]; decide
  | framing w hi hw hr => rw [hr]; decide
  | completes hframe hsize hr => exact (status_ne_of_completes hr).1

theorem AnswerRow.status_eq_errNoFrame_iff {i : Instr} {s : State} {r : Response} (h : AnswerRow i s r) :
    r.status = .errNoFrame ↔ s.present = false ∧ needsFrame i = true := by
  cases h with
  | noFrame hi hp hr => rw [hr]; exact iff_of_true rfl ⟨hp, hi⟩
  | framing w hi hw hr => rw [hr, hi]; exact iff_of_false (by decide) (fun h => Bool.noConfusion h.2)
  | completes hframe hsize hr =>
    refine iff_of_false (status_ne_of_completes hr).2.1 fun ⟨hp, hi⟩ => ?_
    exact Bool.noConfusion (hp.symm.trans (hframe hi))

theorem AnswerRow.status_eq_errFraming_iff {i : Instr} {s : State} {r : Response} (h : AnswerRow i s r) :
    r.status = .errFraming ↔ ∃ w, i = .rxw w ∧ w.length ≠ 36 := by
  cases h with
  | noFrame hi hp hr =>
    rw [hr]
    refine iff_of_false (by decide) fun ⟨w, hw, _⟩ => ?_
    rw [hw] at hi; cases hi
  | framing w hi hw hr => rw [hr]; exact iff_of_true rfl ⟨w, hi, hw⟩
  | completes hframe hsize hr =>
    exact iff_of_false (status_ne_of_completes hr).2.2 fun ⟨w, hi, hw⟩ => hw (hsize w hi)

/-- Settles O42: the response is from its row, and `exec` answers once. -/
theorem everyAnswerIsInTheTable : Obligations.EveryAnswerIsInTheTable := by
  intro i s t h
  obtain ⟨t', r, hx, hout, hrow⟩ := exec_answerRow i s
  obtain rfl : t' = t := by rw [hx] at h; cases h; rfl
  exact ⟨r, hout, hrow.mayAnswer⟩

/-- Settles O45: a packet that does not decode is refused before the state is looked at; one that does is answered
from the row its conditions select (decision D19). -/
theorem statusPriority : Obligations.StatusPriority := by
  intro s op v rest hin
  by_cases hdec : ∃ i, decode (op :: v) = .ok i
  · obtain ⟨i, hi⟩ := hdec
    obtain ⟨t, r, hx, hout, hrow⟩ := exec_answerRow i (s.withInbox rest)
    refine ⟨t, r, ?_, hout, ?_, ?_, ?_⟩
    · rw [step_packet hin, runPacket_ok hi, hx]
    · exact iff_of_false hrow.status_ne_errIllegal fun h => h i hi
    · simpa [hi] using hrow.status_eq_errNoFrame_iff
    · simpa [hi] using hrow.status_eq_errFraming_iff
  · have hrej := not_exists.1 hdec
    refine ⟨_, ⟨.errIllegal, []⟩, (step_packet hin).trans (runPacket_reject hrej _), rfl, ?_, ?_, ?_⟩
    · exact iff_of_true rfl hrej
    · exact iff_of_false (by decide) fun ⟨_, i, hi, _⟩ => hrej i hi
    · exact iff_of_false (by decide) fun ⟨w, hw, _⟩ => hrej (.rxw w) hw

/-! ### Events and steps -/

/-- Everything the block can do with an event of the host. -/
inductive EventEffect (e : HostEvent) (s t : State) : Prop where
  /-- A reset (R75). -/
  | resets (he : e = .reset) (ht : t = s.applyReset)
  /-- The empty sequence, no packet (R38). -/
  | empty (he : e = .packet []) (ht : t = s)
  /-- A packet that does not decode (R34, R37). -/
  | illegal (c : List Byte) (he : e = .packet c) (hc : c ≠ []) (hdec : ∀ i, decode c ≠ .ok i)
      (ht : t = s.reply ⟨.errIllegal, []⟩)
  /-- A command. -/
  | command (c : List Byte) (i : Instr) (he : e = .packet c) (hdec : decode c = .ok i) (hx : exec i s = .next t)

/-- The inversion lemma of `takeEvent`, with its totality: every event answers a next state (R67). -/
theorem takeEvent_effect (e : HostEvent) (s : State) : ∃ t, takeEvent e s = .next t ∧ EventEffect e s t := by
  cases e with
  | reset => exact ⟨_, rfl, .resets rfl rfl⟩
  | packet c =>
    by_cases hdec : ∃ i, decode c = .ok i
    · obtain ⟨i, hi⟩ := hdec
      obtain ⟨t, _, hx, _, _⟩ := exec_answerRow i s
      exact ⟨t, (runPacket_ok hi s).trans hx, .command c i rfl hi hx⟩
    · have hrej := not_exists.1 hdec
      cases c with
      | nil => exact ⟨s, runPacket_empty s, .empty rfl rfl⟩
      | cons op v => exact ⟨_, runPacket_reject hrej s, .illegal _ rfl (List.cons_ne_nil _ _) hrej rfl⟩

/-- The inversion lemma of `step`: the block idles, or takes the event at the head of the inbox. -/
theorem step_cases {s t : State} (h : step s = .next t) :
    (s.inbox = [] ∧ t = s) ∨ ∃ e rest, s.inbox = e :: rest ∧ EventEffect e (s.withInbox rest) t := by
  cases hin : s.inbox with
  | nil => rw [step_nil hin] at h; cases h; exact .inl ⟨rfl, rfl⟩
  | cons e rest =>
    obtain ⟨t', ht', heffect⟩ := takeEvent_effect e (s.withInbox rest)
    rw [step_cons hin, ht'] at h
    cases h
    exact .inr ⟨e, rest, rfl, heffect⟩

/-- Settles O53: idling answers, and so does every event. -/
theorem everyStateRuns : Obligations.EveryStateRuns := by
  intro s
  cases hin : s.inbox with
  | nil => exact ⟨s, step_nil hin⟩
  | cons e rest =>
    obtain ⟨t, ht, _⟩ := takeEvent_effect e (s.withInbox rest)
    exact ⟨t, (step_cons hin).trans ht⟩

/-- Settles O51: the reset is applied to the state with it taken off. -/
theorem resetEventClearsPresent : Obligations.ResetEventClearsPresent := fun _ _ hin =>
  ⟨_, step_cons hin, rfl, rfl, rfl, rfl⟩

/-! ### The record of responses -/

/-- An event leaves the inbox as it is (it was taken off before), and is answered with a legal response when it is a
non-empty packet, and with none otherwise (R35, R38, R75). -/
theorem EventEffect.answers {e : HostEvent} {s t : State} (h : EventEffect e s t) :
    t.inbox = s.inbox ∧ ∃ rs, t.outbox = s.outbox ++ rs ∧ rs.length = packetCount [e]
      ∧ ∀ r ∈ rs, LegalResponse r := by
  cases h with
  | resets he ht => subst he ht; exact ⟨rfl, [], (List.append_nil _).symm, rfl, by simp⟩
  | empty he ht => subst he ht; exact ⟨rfl, [], (List.append_nil _).symm, rfl, by simp⟩
  | illegal c he hc hdec ht =>
    obtain ⟨op, v, rfl⟩ := List.exists_cons_of_ne_nil hc
    subst he ht
    exact ⟨rfl, _, rfl, rfl, by simp [LegalResponse]⟩
  | command c i he hdec hx =>
    obtain ⟨r, hout, hr⟩ := everyAnswerIsInTheTable i s t hx
    obtain rfl := encode_of_decode hdec
    subst he
    refine ⟨(exec_keeps_inbox hx).1, [r], hout, rfl, fun r' hr' => ?_⟩
    obtain rfl := List.mem_singleton.1 hr'
    exact .inr ⟨i, hr⟩

/-- Settles O56: what a step adds to the record of responses is legal. -/
theorem stepKeepsOutboxLegal : Obligations.StepKeepsOutboxLegal := by
  intro s t hs h
  rcases step_cases h with ⟨_, rfl⟩ | ⟨e, rest, _, heffect⟩
  · exact hs
  · obtain ⟨_, rs, hout, _, hlegal⟩ := heffect.answers
    intro r hr
    rw [hout, List.mem_append] at hr
    exact hr.elim (hs r) (hlegal r)

/-- Settles O57: nothing has been answered at reset. -/
theorem resetOutboxIsLegal : Obligations.ResetOutboxIsLegal := fun _ hr => absurd hr List.not_mem_nil

end Sys2Proof.Machine
end

section
/-! PROOFS. `Csum` in 8-bit arithmetic: the sum of the summed bytes with every carry dropped (R40, R41), and what
changes it (R45). -/

namespace Sys2Proof.Machine

/-! ### The sum of bytes -/

/-- Reducing the exact sum once gives the sum with every carry dropped (R41). -/
theorem ofNat_sum_map_toNat (l : List Byte) : BitVec.ofNat 8 (l.map BitVec.toNat).sum = l.sum := by
  induction l with
  | nil => rfl
  | cons b l ih =>
    rw [List.map_cons, List.sum_cons, List.sum_cons, BitVec.ofNat_add, ih, BitVec.ofNat_toNat, BitVec.setWidth_eq]

/-- `Csum` as a sum of bytes. -/
theorem checksum_eq_byte_sum (f : Frame) :
    checksum f = f[0] + f[1] + ((payload f).take (summedCount f)).sum + f[35] := by
  have hmod (n : Nat) : BitVec.ofNat 8 (n % 256) = BitVec.ofNat 8 n := BitVec.eq_of_toNat_eq (by simp)
  rw [checksum_eq, hmod, BitVec.ofNat_add, BitVec.ofNat_add, BitVec.ofNat_add, ofNat_sum_map_toNat]
  simp only [BitVec.ofNat_toNat, BitVec.setWidth_eq]

/-- The bytes before `CHECKSUM` are `START`, `LENGTH` and the payload (R11). -/
theorem toList_take_two_add (f : Frame) {n : Nat} (hn : n ≤ 32) :
    f.toList.take (2 + n) = f[0] :: f[1] :: (payload f).take n := by
  apply List.ext_getElem (by simp [payload_length]; omega)
  intro k hk _
  rw [List.getElem_take, Vector.getElem_toList]
  match k with
  | 0 => rfl
  | 1 => rfl
  | k + 2 =>
    rw [List.getElem_cons_succ, List.getElem_cons_succ, List.getElem_take, getElem_payload]
    simp only [Nat.add_comm k 2]

/-- Settles O19: addition of bytes is commutative, so the order of the terms does not matter. -/
theorem checksumIsCarryDroppingSum : Obligations.ChecksumIsCarryDroppingSum := by
  intro f l hl
  rw [toList_take_two_add f (Nat.min_le_right _ _)] at hl
  calc checksum f = f[0] + f[1] + ((payload f).take (summedCount f)).sum + f[35] := checksum_eq_byte_sum f
    _ = (f[0] :: f[1] :: (payload f).take (summedCount f) ++ [f[35]]).sum := by
      simp only [List.cons_append, List.sum_cons, List.sum_append, List.sum_nil]; ring
    _ = l.sum := hl.sum_eq.symm
    _ = l.foldl (fun acc b => acc + b) 0 := List.sum_eq_foldl

/-! ### Writes to summed bytes -/

/-- A write to `PAYLOAD[i]` is a write to the payload (R11). -/
theorem payload_set (f : Frame) {i : Nat} (hi : i < 32) (v : Byte) :
    payload (f.set (2 + i) v) = (payload f).set i v := by
  simp only [payload, offPayload, Vector.toList_set]
  rw [List.drop_set, if_neg (by omega), List.take_set, Nat.add_sub_cancel_left]

/-- A write to `PAYLOAD[i]` leaves `START`, `LENGTH` and `END`, and the number of bytes summed. -/
theorem fields_set_payload (f : Frame) {i : Nat} (hi : i < 32) (v : Byte) :
    (f.set (2 + i) v)[0] = f[0] ∧ (f.set (2 + i) v)[1] = f[1] ∧ (f.set (2 + i) v)[35] = f[35]
      ∧ summedCount (f.set (2 + i) v) = summedCount f := by
  have hother (j : Nat) (hj : j < 36) (hne : 2 + i ≠ j) : (f.set (2 + i) v)[j] = f[j] :=
    Vector.getElem_set_ne _ hj hne
  have h1 := hother 1 (by omega) (by omega)
  exact ⟨hother 0 (by omega) (by omega), h1, hother 35 (by omega) (by omega), by rw [summedCount_eq, h1]; rfl⟩

/-- The payload byte `i` is a summed one. -/
theorem lt_length_take_summedCount {f : Frame} {i : Nat} (hi : i < 32) (hlen : i < f[1].toNat) :
    i < ((payload f).take (summedCount f)).length := by
  rw [List.length_take, payload_length, summedCount_eq]
  omega

/-- A write to `PAYLOAD[i]` leaves the other terms of `Csum` and the number of payload bytes summed. -/
theorem checksum_set_payload (f : Frame) {i : Nat} (hi : i < 32) (v : Byte) :
    checksum (f.set (2 + i) v)
      = f[0] + f[1] + (((payload f).take (summedCount f)).set i v).sum + f[35] := by
  obtain ⟨h0, h1, h35, hcount⟩ := fields_set_payload f hi v
  rw [checksum_eq_byte_sum, h0, h1, h35, hcount, payload_set f hi, List.take_set]

/-- A write outside the payload leaves it. -/
theorem payload_set_outside (f : Frame) {k : Nat} (hk : k < 2 ∨ 34 ≤ k) (hlt : k < 36) (v : Byte) :
    payload (f.set k v) = payload f := by
  apply List.ext_getElem (by simp [payload_length])
  intro i hi _
  rw [payload_length] at hi
  rw [getElem_payload, getElem_payload, Vector.getElem_set_ne _ _ (by omega)]

/-- `Csum` after a write to `START`. -/
theorem checksum_set_start (f : Frame) (v : Byte) : checksum (f.set 0 v)
    = v + f[1] + ((payload f).take (summedCount f)).sum + f[35] := by
  rw [checksum_eq_byte_sum, payload_set_outside f (by decide) (by decide)]
  simp [summedCount_eq]

/-- `Csum` after a write to `END`. -/
theorem checksum_set_end (f : Frame) (v : Byte) : checksum (f.set 35 v)
    = f[0] + f[1] + ((payload f).take (summedCount f)).sum + v := by
  rw [checksum_eq_byte_sum, payload_set_outside f (by decide) (by decide)]
  simp [summedCount_eq]

/-- Writing another byte to a list changes its sum. -/
theorem sum_set_ne {l : List Byte} {i : Nat} (hi : i < l.length) {v : Byte} (hv : v ≠ l[i]) :
    (l.set i v).sum ≠ l.sum := by
  rw [List.sum_set', dif_pos hi, Ne, add_eq_left, neg_add_eq_zero]
  exact hv.symm

/-! ### The obligations -/

/-- Settles O22: one term of the sum changes, and addition of bytes cancels. -/
theorem oneSummedByteChangeIsSeen : Obligations.OneSummedByteChangeIsSeen := by
  rintro f ⟨k, hk⟩ v hkind hv
  dsimp only at hkind hv ⊢
  rcases hkind with rfl | rfl | ⟨h2, h34, hlen⟩
  · rw [Ne, checksum_set_start, checksum_eq_byte_sum]
    simpa only [add_left_inj] using hv
  · rw [Ne, checksum_set_end, checksum_eq_byte_sum]
    simpa only [add_right_inj] using hv
  · obtain ⟨i, rfl⟩ := Nat.exists_eq_add_of_le h2
    have hi : i < 32 := by omega
    have hsum := sum_set_ne (lt_length_take_summedCount (f := f) hi (by omega)) (v := v)
      (by rwa [List.getElem_take, getElem_payload])
    rw [Ne, checksum_set_payload f hi, checksum_eq_byte_sum]
    simpa only [add_left_inj, add_right_inj] using hsum

/-- Settles O23: the bytes summed are the same, in another order. -/
theorem swapOfSummedBytesIsNotSeen : Obligations.SwapOfSummedBytesIsNotSeen := by
  intro f i j hi hj
  have hi' := lt_length_take_summedCount i.isLt hi
  have hj' := lt_length_take_summedCount j.isLt hj
  have hswap := (List.set_set_perm hi' hj').sum_eq
  simp only [List.getElem_take, getElem_payload] at hswap
  obtain ⟨h0, h1, h35, hcount⟩ := fields_set_payload f i.isLt f[2 + j.val]
  rw [checksum_set_payload _ j.isLt, h0, h1, h35, hcount, payload_set f i.isLt, List.take_set, hswap,
    checksum_eq_byte_sum]

end Sys2Proof.Machine
end

section
/-! PROOFS. Valid frames: what `VALID` means (R11, R51), that ENC builds a valid frame (R18, R49), and how long it stays
one. -/

namespace Sys2Proof.Machine

/-! ### The verdict `VALID` -/

/-- The verdict is `VALID` when no check fails, and then only (R51). -/
theorem verdict_eq_valid_iff (f : Frame) : verdict f = ⟨.valid, []⟩ ↔
    f[0] = 0x02 ∧ f[35] = 0x03 ∧ f[1].toNat ≤ 32 ∧ checksum f = f[34] := by
  rw [verdict_eq]
  split_ifs <;> simp_all

/-- `Csum` of a frame with the right sentinels and a `LENGTH` of at most 32, over the naturals (R11). -/
theorem toNat_checksum {f : Frame} (h0 : f[0] = 0x02) (h35 : f[35] = 0x03) (h1 : f[1].toNat ≤ 32) :
    (checksum f).toNat = (5 + f[1].toNat
      + ∑ i ∈ Finset.range f[1].toNat, (f.toList.getD (2 + i) 0).toNat) % 256 := by
  have hstart : f[0].toNat = 2 := by rw [h0]; rfl
  have hend : f[35].toNat = 3 := by rw [h35]; rfl
  rw [checksumFormula f, Nat.min_eq_left h1, BitVec.toNat_ofNat, hstart, hend]
  omega

/-- VAL answers `VALID` when there is a frame and the verdict on it is `VALID`, and then only. -/
theorem exec_val_eq_valid_iff (s : State) : exec .val s = .next (s.reply ⟨.valid, []⟩) ↔
    s.present = true ∧ verdict s.frame = ⟨.valid, []⟩ := by
  refine ⟨fun h => ?_, fun ⟨hp, hv⟩ => hv ▸ exec_val_present hp⟩
  rcases exec_val_cases h with ⟨hp, ht⟩ | ⟨_, ht⟩
  · exact ⟨hp, (State.reply_outbox_inj (congrArg State.outbox ht)).symm⟩
  · cases State.reply_outbox_inj (congrArg State.outbox ht)

/-- Settles O26: the fourth check is the stated sum once the first three hold. -/
theorem validMeansAllFourConstraints : Obligations.ValidMeansAllFourConstraints := by
  intro s
  rw [exec_val_eq_valid_iff, verdict_eq_valid_iff]
  refine and_congr_right fun _ => and_congr_right fun h0 => and_congr_right fun h35 => and_congr_right fun h1 => ?_
  rw [← toNat_checksum h0 h35 h1, BitVec.toNat_inj, eq_comm]

/-! ### ENC builds a valid frame -/

theorem verdict_encodeFrame (m : List Byte) : verdict (encodeFrame m) = ⟨.valid, []⟩ := by
  have hlength : (encodeFrame m)[1].toNat ≤ 32 := (toNat_encodeFrame_length m).trans_le (Nat.min_le_right _ _)
  exact (verdict_eq_valid_iff _).2
    ⟨encodeFrame_start m, encodeFrame_end m, hlength, (encodeFrame_checksum m).symm⟩

/-- Settles O16: ENC's frame is valid, and TXW answers all its bytes. -/
theorem encThenValIsValid : Obligations.EncThenValIsValid := by
  intro s m
  refine ⟨_, _, exec_enc m s, ?_, exec_txw_present rfl, wireBytes_length _⟩
  exact (exec_val_eq_valid_iff _).2 ⟨rfl, verdict_encodeFrame m⟩

/-- The four conditions of validity are those VAL checks (R11, R51). -/
theorem validFrame_iff (f : Frame) : ValidFrame f ↔ verdict f = ⟨.valid, []⟩ := by
  rw [verdict_eq_valid_iff, eq_comm (a := checksum f)]
  rfl

/-- ENC establishes the five conditions (R18). -/
theorem encodedFrame_encodeFrame (m : List Byte) : EncodedFrame (encodeFrame m) :=
  ⟨(validFrame_iff _).2 (verdict_encodeFrame m), encPadsWithZeros.1 State.reset _ m (exec_enc m _)⟩

/-! ### How long it stays one -/

/-- There is a frame, and it meets the five conditions of R18. -/
def HoldsEncoded (s : State) : Prop := s.present = true ∧ EncodedFrame s.frame

/-- A command other than the four corruptions and RXW changes no frame, or loads one that ENC builds. -/
theorem exec_keeps_holdsEncoded {i : Instr} {s t : State} (hs : HoldsEncoded s) (h : exec i s = .next t)
    (hcor : i ∉ [.corc, .cors, .core, .corr]) (hrxw : ∀ w, i ≠ .rxw w) : HoldsEncoded t := by
  cases exec_effect h with
  | answers r ht => subst ht; exact hs
  | loads f ht hi =>
    subst ht
    rcases hi with ⟨m, _, rfl⟩ | ⟨w, _, hi, _⟩
    · exact ⟨rfl, encodedFrame_encodeFrame m⟩
    · exact absurd hi (hrxw w)
  | corrupts k hp ht hi => rcases hi with ⟨rfl, _⟩ | ⟨rfl, _⟩ | ⟨rfl, _⟩ <;> exact absurd hcor (by decide)
  | corruptsDrawn hp hi ht => subst hi; exact absurd hcor (by decide)

/-- Settles O17: ENC establishes the five conditions, and each event but those named keeps them. -/
theorem encodedFramePersists : Obligations.EncodedFramePersists := by
  refine ⟨fun s t m h => ?_, fun s t hp hs h hreset hcommand => ?_⟩
  · cases h; exact ⟨rfl, encodedFrame_encodeFrame m⟩
  · rcases step_cases h with ⟨_, rfl⟩ | ⟨e, rest, hin, heffect⟩
    · exact ⟨hp, hs⟩
    · rw [hin] at hreset hcommand
      cases heffect with
      | resets he ht => exact absurd (congrArg some he) hreset
      | empty he ht => subst ht; exact ⟨hp, hs⟩
      | illegal c he hc hdec ht => subst ht; exact ⟨hp, hs⟩
      | command c i he hdec hx =>
        obtain ⟨hcor, hrxw⟩ := hcommand c i (congrArg some he) hdec
        exact exec_keeps_holdsEncoded (s := s.withInbox rest) ⟨hp, hs⟩ hx hcor hrxw

end Sys2Proof.Machine
end

section
/-! PROOFS. The four corruption commands: CORR's draw (R59), the one byte each writes (R60), what VAL says afterwards
(R61), and repetitions (R24, R56). -/

namespace Sys2Proof.Machine

/-! ### CORR -/

/-- CORR is the corruption of its free draw. -/
theorem exec_corr (s : State) : exec .corr s = corruptDrawn (Config.freeDraw s.draws) s := rfl

/-- The numbering of the draw, with the frame each gives (R59). -/
theorem corruptFrame_kindOfDraw (d : Fin 3) (f : Frame) : corruptFrame (kindOfDraw d) f =
    if d = 0 then f.set 34 (BitVec.ofNat 8 ((f[34].toNat + 1) % 256))
    else if d = 1 then f.set 0 0xFF else f.set 35 0xFF := by
  match d with
  | 0 => exact corruptFrame_checksum f
  | 1 => exact corruptFrame_startByte f
  | 2 => exact corruptFrame_endByte f

/-- What a drawn corruption does with a frame present. -/
theorem corruptDrawn_eq {s : State} (hp : s.present = true) (d : Fin 3) : corruptDrawn d s =
    .next (({ s with
      frame := if d = 0 then s.frame.set 34 (BitVec.ofNat 8 ((s.frame[34].toNat + 1) % 256))
        else if d = 1 then s.frame.set 0 0xFF else s.frame.set 35 0xFF,
      draws := s.draws + 1 } : State).reply ⟨.done, []⟩) := by
  rw [corruptDrawn_present hp, corruptFrame_kindOfDraw]
  rfl

/-- Settles O32: each draw has its effect, CORR is that of its free draw, and 0x33 takes no operand. -/
theorem corrAppliesOneOfThreeKinds : Obligations.CorrAppliesOneOfThreeKinds := fun s =>
  ⟨fun hp => ⟨corruptDrawn_eq hp 0, corruptDrawn_eq hp 1, corruptDrawn_eq hp 2⟩,
    fun hp => ⟨Config.freeDraw s.draws, (exec_corr s).trans (corruptDrawn_eq hp _)⟩,
    exec_absent rfl,
    fun _ _ hin hv => step_operand_refused hin (by decide) (by decide) hv⟩

/-! ### One byte written -/

/-- A corruption writes its own byte only (R60). -/
theorem getElem_corruptFrame_of_ne {k : CorruptKind} {j : Fin 36} (hj : j ≠ corruptIndex k) (f : Frame) :
    (corruptFrame k f)[j.val] = f[j.val] := by
  rw [getElem_corruptFrame, if_neg fun h => hj (Fin.ext h.symm)]

/-- The frame rule of a corruption command, where `u` is the state it leaves before its response. -/
theorem corruption_writes_one_byte {i : Instr} {k : CorruptKind} {s u : State} (hi : needsFrame i = true)
    (hx : s.present = true → exec i s = .next (u.reply ⟨.done, []⟩)) (hframe : u.frame = corruptFrame k s.frame)
    (hout : u.outbox = s.outbox) (hpresent : u.present = s.present) (hin : u.inbox = s.inbox)
    (hresets : u.resets = s.resets) (hdraws : i ≠ .corr → u.draws = s.draws) :
    ∃ t r, exec i s = .next t ∧ t.outbox = s.outbox ++ [r]
      ∧ (∀ j : Fin 36, j ≠ corruptIndex k → t.frame[j.val] = s.frame[j.val])
      ∧ t.present = s.present ∧ t.inbox = s.inbox ∧ t.resets = s.resets
      ∧ (i ≠ .corr → t.draws = s.draws)
      ∧ (s.present = true → r = ⟨.done, []⟩)
      ∧ (s.present = false → t.frame = s.frame ∧ r = ⟨.errNoFrame, []⟩) := by
  cases hp : s.present with
  | true =>
    refine ⟨_, _, hx hp, by rw [State.reply_outbox, hout], fun j hj => ?_, hpresent.trans hp, hin, hresets, hdraws,
      fun _ => rfl, fun h => Bool.noConfusion h⟩
    simp only [State.reply_frame, hframe, getElem_corruptFrame_of_ne hj]
  | false =>
    exact ⟨_, _, exec_absent hi hp, rfl, fun _ _ => rfl, hp, rfl, rfl, fun _ => rfl,
      fun h => Bool.noConfusion h, fun _ => ⟨rfl, rfl⟩⟩

/-- Settles O33: CORC, CORS and CORE set the corrupted frame; CORR counts its draw besides. -/
theorem corruptionWritesOneByteOnly : Obligations.CorruptionWritesOneByteOnly := by
  refine ⟨rfl, rfl, rfl, fun s i k hik => ?_⟩
  rcases hik with ⟨rfl, rfl⟩ | ⟨rfl, rfl⟩ | ⟨rfl, rfl⟩ | ⟨rfl, rfl⟩
  case inr.inr.inr =>
    exact corruption_writes_one_byte rfl (fun hp => corruptDrawn_present hp _) rfl rfl rfl rfl rfl
      fun h => absurd rfl h
  all_goals
    exact corruption_writes_one_byte rfl (fun hp => corruptAs_present hp _) rfl rfl rfl rfl rfl fun _ => rfl

/-! ### What VAL says of a corrupted frame -/

theorem verdict_of_start_ne {f : Frame} (h0 : f[0] ≠ 0x02) : verdict f = ⟨.badStart, []⟩ := by
  rw [verdict_eq, if_pos h0]

theorem verdict_of_end_ne {f : Frame} (h0 : f[0] = 0x02) (h35 : f[35] ≠ 0x03) : verdict f = ⟨.badEnd, []⟩ := by
  rw [verdict_eq, if_neg (not_not_intro h0), if_pos h35]

/-- `BAD_SENTINEL` is not `STX`: whatever the frame was, the first check fails (R57). -/
theorem verdict_corruptFrame_startByte (f : Frame) : verdict (corruptFrame .startByte f) = ⟨.badStart, []⟩ :=
  verdict_of_start_ne (by rw [corruptFrame_startByte]; simp)

/-- `BAD_SENTINEL` is not `ETX`: the second check fails when the first does not (R58). -/
theorem verdict_corruptFrame_endByte {f : Frame} (h0 : f[0] = 0x02) :
    verdict (corruptFrame .endByte f) = ⟨.badEnd, []⟩ :=
  verdict_of_end_ne (by rw [corruptFrame_endByte]; simpa using h0) (by rw [corruptFrame_endByte]; simp)

/-- On a valid frame an incremented `CHECKSUM` is the one check that fails, and the recomputed byte is the old one
(R56). -/
theorem verdict_corruptFrame_checksum {f : Frame} (hv : verdict f = ⟨.valid, []⟩) :
    verdict (corruptFrame .checksum f)
      = ⟨.badChecksum, [f[34], BitVec.ofNat 8 ((f[34].toNat + 1) % 256)]⟩ := by
  obtain ⟨h0, h35, h1, hc⟩ := (verdict_eq_valid_iff f).1 hv
  have hsum : checksum (f.set 34 (f[34] + 1)) = f[34] := (checksum_memWrite_checksum f _).trans hc
  rw [corruptFrame_checksum, ← byte_add_one_eq, verdict_eq, hsum]
  simp [h0, h35, Nat.not_lt.2 h1]

/-- The status VAL answers after a corruption of each kind (R61). -/
def corruptedStatus (k : CorruptKind) : Status :=
  match k with
  | .checksum => .badChecksum
  | .startByte => .badStart
  | .endByte => .badEnd

theorem status_verdict_corruptFrame {f : Frame} (hv : verdict f = ⟨.valid, []⟩) (k : CorruptKind) :
    (verdict (corruptFrame k f)).status = corruptedStatus k := by
  cases k with
  | checksum => rw [verdict_corruptFrame_checksum hv]; rfl
  | startByte => rw [verdict_corruptFrame_startByte]; rfl
  | endByte => rw [verdict_corruptFrame_endByte ((verdict_eq_valid_iff f).1 hv).1]; rfl

/-- No corruption of a valid frame is valid. -/
theorem corruptedStatus_ne_valid (k : CorruptKind) : corruptedStatus k ≠ .valid := by
  cases k <;> decide

theorem corruptedStatus_kindOfDraw (d : Fin 3) : corruptedStatus (kindOfDraw d) =
    if d = 0 then .badChecksum else if d = 1 then .badStart else .badEnd := by
  revert d; decide

/-- VAL after any of the three draws on a frame it called `VALID`. -/
theorem corruptDrawn_then_val {s : State} (hp : s.present = true) (hv : verdict s.frame = ⟨.valid, []⟩)
    (d : Fin 3) : ∃ t r, corruptDrawn d s = .next t ∧ exec .val t = .next (t.reply r)
      ∧ r.status = corruptedStatus (kindOfDraw d) :=
  ⟨_, _, corruptDrawn_present hp d, exec_val_present hp, status_verdict_corruptFrame hv _⟩

/-- VAL after a corruption of a present frame. -/
theorem corruptAs_then_val {s : State} (hp : s.present = true) {k : CorruptKind} {r : Response}
    (hr : verdict (corruptFrame k s.frame) = r) :
    ∃ t, corruptAs k s = .next t ∧ exec .val t = .next (t.reply r) :=
  ⟨_, corruptAs_present hp k, hr ▸ exec_val_present hp⟩

/-- Settles O34: the verdict on each corrupted frame; CORR is one of the three draws. -/
theorem corruptionIsReportedByVal : Obligations.CorruptionIsReportedByVal := by
  intro s hval
  obtain ⟨hp, hv⟩ := (exec_val_eq_valid_iff s).1 hval
  have h0 := ((verdict_eq_valid_iff s.frame).1 hv).1
  refine ⟨corruptAs_then_val hp (verdict_corruptFrame_checksum hv),
    corruptAs_then_val hp (verdict_corruptFrame_startByte _),
    corruptAs_then_val hp (verdict_corruptFrame_endByte h0), fun d => ?_, ?_⟩
  · rw [← corruptedStatus_kindOfDraw]
    exact corruptDrawn_then_val hp hv d
  · obtain ⟨t, r, ht, hr, hst⟩ := corruptDrawn_then_val hp hv (Config.freeDraw s.draws)
    exact ⟨t, r, ht, hr, hst ▸ corruptedStatus_ne_valid _⟩

/-- VAL after two corruptions of a present frame. -/
theorem corruptAs_twice_then_val {s : State} (hp : s.present = true) {j k : CorruptKind} {st : Status}
    (hst : verdict (corruptFrame k (corruptFrame j s.frame)) = ⟨st, []⟩) :
    ∃ t u, corruptAs j s = .next t ∧ corruptAs k t = .next u ∧ exec .val u = .next (u.reply ⟨st, []⟩) := by
  obtain ⟨u, hu, hval⟩ := corruptAs_then_val (s := (s.setFrame (corruptFrame j s.frame)).reply ⟨.done, []⟩) hp hst
  exact ⟨_, u, corruptAs_present hp j, hu, hval⟩

/-- Settles O35: a bad start byte is reported whatever else is bad, and CORC leaves the start byte good. -/
theorem twoCorruptionsReportEarlierCheck : Obligations.TwoCorruptionsReportEarlierCheck := by
  intro s hval a b st hmem
  obtain ⟨hp, hv⟩ := (exec_val_eq_valid_iff s).1 hval
  have h0 := ((verdict_eq_valid_iff s.frame).1 hv).1
  simp only [List.mem_cons, List.not_mem_nil, or_false, Prod.mk.injEq] at hmem
  rcases hmem with ⟨rfl, rfl, rfl⟩ | ⟨rfl, rfl, rfl⟩ | ⟨rfl, rfl, rfl⟩ | ⟨rfl, rfl, rfl⟩
  · exact corruptAs_twice_then_val hp (verdict_corruptFrame_startByte _)
  · exact corruptAs_twice_then_val hp (verdict_corruptFrame_startByte _)
  · exact corruptAs_twice_then_val hp (verdict_of_start_ne (by
      rw [corruptFrame_endByte, corruptFrame_startByte]; simp))
  · exact corruptAs_twice_then_val hp (verdict_corruptFrame_endByte
      ((getElem_corruptFrame_of_ne (j := 0) (by decide) _).trans h0))

/-! ### Repetitions -/

/-- The frame with `n` added to `CHECKSUM` modulo 256, as a run of CORC leaves it. -/
def addToChecksum (f : Frame) (n : Nat) : Frame := f.set 34 (BitVec.ofNat 8 ((f[34].toNat + n) % 256))

/-- A byte plus `n` in 8-bit arithmetic. -/
theorem byte_add_ofNat_eq (b : Byte) (n : Nat) : b + BitVec.ofNat 8 n = BitVec.ofNat 8 ((b.toNat + n) % 256) :=
  BitVec.eq_of_toNat_eq (by simp)

theorem addToChecksum_eq (f : Frame) (n : Nat) : addToChecksum f n = f.set 34 (f[34] + BitVec.ofNat 8 n) := by
  rw [byte_add_ofNat_eq]
  rfl

theorem addToChecksum_zero (f : Frame) : addToChecksum f 0 = f := by
  rw [addToChecksum_eq, BitVec.add_zero, Vector.set_getElem_self]

theorem addToChecksum_add (f : Frame) (m n : Nat) :
    addToChecksum (addToChecksum f m) n = addToChecksum f (m + n) := by
  simp only [addToChecksum_eq, Vector.set_set, Vector.getElem_set_self, BitVec.ofNat_add, BitVec.add_assoc]

/-- CORC adds 1 (R56). -/
theorem exec_corc_present {s : State} (hp : s.present = true) :
    exec .corc s = .next ((s.setFrame (addToChecksum s.frame 1)).reply ⟨.done, []⟩) :=
  (corcAddsOneToChecksum s).1 hp

/-- The state after `n` CORC packets, with `rest` still to take. -/
def State.afterCorcs (s : State) (n : Nat) (rest : List HostEvent) : State :=
  { s with
    frame := addToChecksum s.frame n
    inbox := rest
    outbox := s.outbox ++ List.replicate n ⟨.done, []⟩ }

theorem State.afterCorcs_zero (s : State) : s.afterCorcs 0 s.inbox = s := by
  simp only [State.afterCorcs, addToChecksum_zero, List.replicate_zero, List.append_nil]

/-- One CORC and then `n` are `n + 1`. -/
theorem State.afterCorcs_succ (s : State) (n : Nat) (es rest : List HostEvent) :
    (((s.withInbox es).setFrame (addToChecksum s.frame 1)).reply ⟨.done, []⟩).afterCorcs n rest
      = s.afterCorcs (n + 1) rest := by
  simp [State.afterCorcs, addToChecksum_add, Nat.add_comm 1 n, List.replicate_succ]

/-- Settles O36, by induction on the number of packets: the first adds 1, and the others the rest. -/
theorem repeatedCorcAddsCount : Obligations.RepeatedCorcAddsCount := by
  intro n
  induction n with
  | zero =>
    intro s rest _ hin
    obtain rfl : s.inbox = rest := hin
    exact congrArg Host.Outcome.next s.afterCorcs_zero.symm
  | succ n ih =>
    intro s rest hp hin
    have hstep : step s = .next (((s.withInbox (List.replicate n (.packet [0x30]) ++ rest)).setFrame
        (addToChecksum s.frame 1)).reply ⟨.done, []⟩) :=
      (stepRunsDecodedPacket s [0x30] .corc _ hin rfl).trans (exec_corc_present hp)
    calc Host.Core.run Sys2Proof.core (n + 1) s = _ := run_succ hstep n
      _ = .next (State.afterCorcs _ n rest) := ih _ rest hp rfl
      _ = .next (s.afterCorcs (n + 1) rest) := congrArg Host.Outcome.next (s.afterCorcs_succ n _ rest)

/-- Writing a sentinel again changes nothing more. -/
theorem corruptFrame_twice {k : CorruptKind} (hk : k ≠ .checksum) (f : Frame) :
    corruptFrame k (corruptFrame k f) = corruptFrame k f := by
  cases k with
  | checksum => exact absurd rfl hk
  | startByte => rw [corruptFrame_startByte, corruptFrame_startByte, Vector.set_set]
  | endByte => rw [corruptFrame_endByte, corruptFrame_endByte, Vector.set_set]

/-- A corruption by sentinel issued twice leaves the block as once does. -/
theorem corruptAs_twice {k : CorruptKind} (hk : k ≠ .checksum) {s t u : State} (h : corruptAs k s = .next t)
    (h' : corruptAs k t = .next u) : u.frame = t.frame ∧ u.present = t.present := by
  rcases corruptAs_cases h' with ⟨ht, rfl⟩ | ⟨_, rfl⟩
  · rcases corruptAs_cases h with ⟨_, rfl⟩ | ⟨hp, rfl⟩
    · exact ⟨corruptFrame_twice hk _, rfl⟩
    · exact absurd (hp.symm.trans ht) Bool.false_ne_true
  · exact ⟨rfl, rfl⟩

/-- Settles O47: ENC and RXW load the same frame again, CORS and CORE write the same byte again, and two increments
add 2. -/
theorem encRxwCorsCoreTwiceAsOnceCorcAddsTwo : Obligations.EncRxwCorsCoreTwiceAsOnceCorcAddsTwo := by
  refine ⟨fun s t u i hi h h' => ?_, fun s hp => ?_⟩
  · rcases hi with rfl | rfl | ⟨m, rfl⟩ | ⟨w, rfl⟩
    · exact corruptAs_twice (by decide) h h'
    · exact corruptAs_twice (by decide) h h'
    · cases h; cases h'; exact ⟨rfl, rfl⟩
    · by_cases hw : w.length = 36
      · rw [exec_rxw_of_length hw] at h h'; cases h; cases h'; exact ⟨rfl, rfl⟩
      · rw [exec_rxw_of_ne hw] at h'; cases h'; exact ⟨rfl, rfl⟩
  · exact ⟨_, _, exec_corc_present hp, exec_corc_present hp, addToChecksum_add s.frame 1 1⟩

end Sys2Proof.Machine
end

section
/-! PROOFS. The round trips of the wire (R65), and what changes and what does not (R13, R14, R24, R52, R77). -/

namespace Sys2Proof.Machine

/-! ### Round trips -/

/-- Loading the frame that is there changes nothing. -/
theorem State.loadFrame_self {s : State} (hp : s.present = true) : s.loadFrame s.frame = s := by
  rw [State.loadFrame, ← hp]

/-- RXW of the wire bytes of a frame loads that frame (R65). -/
theorem exec_rxw_wireBytes (f : Frame) (s : State) :
    exec (.rxw (wireBytes f)) s = .next ((s.loadFrame f).reply ⟨.done, []⟩) := by
  rw [exec_rxw_of_length (wireBytes_length f), frameOfWire_wireBytes]

/-- Settles O40: reading the wire bytes of a frame and building a frame from wire bytes are inverse. -/
theorem wireRoundTrips : Obligations.WireRoundTrips := by
  refine ⟨fun s hp => ?_, fun s w hw => ?_, fun s s' m => ?_⟩
  · refine ⟨_, exec_txw_present hp, ?_⟩
    rw [exec_rxw_wireBytes, State.loadFrame_self hp]
  · refine ⟨_, exec_rxw_of_length hw s, ?_⟩
    rw [exec_txw_present rfl, State.reply_frame, State.loadFrame_frame, wireBytes_frameOfWire]
  · refine ⟨_, _, _, exec_enc m s, exec_txw_present rfl, exec_rxw_wireBytes _ s', rfl, ?_⟩
    exact (exec_val_eq_valid_iff _).2 ⟨rfl, verdict_encodeFrame m⟩

/-! ### Reading commands -/

/-- A command that only answers something of the current frame changes nothing, and answers the same again. -/
theorem reading_command_spec {i : Instr} {g : Frame → Response}
    (hi : ∀ s, exec i s = s.withFrame fun f => .next (s.reply (g f))) (s : State) :
    ∃ r, exec i s = .next (s.reply r) ∧ (s.reply r).frame = s.frame ∧ (s.reply r).present = s.present
      ∧ exec i (s.reply r) = .next ((s.reply r).reply r) := by
  cases hp : s.present with
  | true =>
    refine ⟨g s.frame, ?_, rfl, hp, ?_⟩
    · rw [hi, State.withFrame_present hp]
    · rw [hi, State.withFrame_present (s := s.reply _) hp, State.reply_frame]
  | false =>
    refine ⟨⟨.errNoFrame, []⟩, ?_, rfl, hp, ?_⟩
    · rw [hi, State.withFrame_absent hp]
    · rw [hi, State.withFrame_absent (s := s.reply _) hp]

/-- Settles O46: each of the three only answers something of the current frame. -/
theorem readingCommandsChangeNothing : Obligations.ReadingCommandsChangeNothing := by
  intro s i hi
  simp only [List.mem_cons, List.not_mem_nil, or_false] at hi
  rcases hi with rfl | rfl | rfl
  · exact reading_command_spec (g := fun f => ⟨.done, [checksum f]⟩) (fun _ => rfl) s
  · exact reading_command_spec (g := verdict) (fun _ => rfl) s
  · exact reading_command_spec (g := fun f => ⟨.done, wireBytes f⟩) (fun _ => rfl) s

/-! ### Writing commands -/

/-- A corruption changes no byte but its own (R60). -/
theorem eq_corruptIndex_of_getElem_ne {k : CorruptKind} {f : Frame} {j : Fin 36}
    (h : (corruptFrame k f)[j.val] ≠ f[j.val]) : j = corruptIndex k := by
  by_contra hj
  exact h (getElem_corruptFrame_of_ne hj f)

/-- The addresses of the three kinds (R25). -/
theorem corruptIndex_cases (k : CorruptKind) :
    (corruptIndex k).val = 34 ∨ (corruptIndex k).val = 0 ∨ (corruptIndex k).val = 35 := by
  cases k <;> decide

/-- Settles O48: a command answers only, loads a whole frame (ENC, or RXW of 36 bytes), or corrupts one byte. -/
theorem onlyListedBytesAreWritten : Obligations.OnlyListedBytesAreWritten := by
  intro s t i h
  cases exec_effect h with
  | answers r ht => subst ht; exact ⟨fun _ hne => absurd rfl hne, fun hne => absurd rfl hne⟩
  | loads f ht hi =>
    subst ht
    rcases hi with ⟨m, hm, _⟩ | ⟨w, hw, hi, _⟩
    · exact ⟨fun _ _ => .inl ⟨m, hm⟩, fun _ => ⟨rfl, .inl ⟨m, hm⟩⟩⟩
    · exact ⟨fun _ _ => .inr (.inl ⟨w, hi, hw⟩), fun _ => ⟨rfl, .inr ⟨w, hi, hw⟩⟩⟩
  | corrupts k hp ht hi =>
    subst ht
    refine ⟨fun j hne => .inr (.inr ?_), fun hne => absurd rfl hne⟩
    obtain rfl := eq_corruptIndex_of_getElem_ne hne
    rcases hi with ⟨hi, rfl⟩ | ⟨hi, rfl⟩ | ⟨hi, rfl⟩
    · exact .inl ⟨hi, rfl⟩
    · exact .inr (.inl ⟨hi, rfl⟩)
    · exact .inr (.inr (.inl ⟨hi, rfl⟩))
  | corruptsDrawn hp hi ht =>
    subst ht
    refine ⟨fun j hne => .inr (.inr (.inr (.inr (.inr ⟨hi, ?_⟩)))), fun hne => absurd rfl hne⟩
    obtain rfl := eq_corruptIndex_of_getElem_ne hne
    exact corruptIndex_cases _

/-- Everything a step can do to the flag: keep it, clear it on a reset, or set it with ENC or a 36-byte RXW. -/
theorem step_present_cases {s t : State} (h : step s = .next t) :
    t.present = s.present ∨ (t.present = false ∧ s.inbox.head? = some .reset)
      ∨ (t.present = true ∧ ∃ c i, s.inbox.head? = some (.packet c) ∧ decode c = .ok i
          ∧ ((∃ m, i = .enc m) ∨ ∃ w, i = .rxw w ∧ w.length = 36)) := by
  rcases step_cases h with ⟨_, rfl⟩ | ⟨e, rest, hin, heffect⟩
  · exact .inl rfl
  · rw [hin]
    cases heffect with
    | resets he ht => subst he ht; exact .inr (.inl ⟨rfl, rfl⟩)
    | empty he ht => subst ht; exact .inl rfl
    | illegal c he hc hdec ht => subst ht; exact .inl rfl
    | command c i he hdec hx =>
      by_cases heq : t.present = s.present
      · exact .inl heq
      · obtain ⟨ht, hi⟩ := (onlyListedBytesAreWritten _ t i hx).2 heq
        exact .inr (.inr ⟨ht, c, i, congrArg some he, hdec, hi⟩)

/-- Settles O49: the flag goes down on a reset alone, and up with a command that loads a frame alone. -/
theorem presentChangesOnlyAsListed : Obligations.PresentChangesOnlyAsListed := by
  intro s t h
  rcases step_present_cases h with heq | ⟨ht, hreset⟩ | ⟨ht, hloads⟩
  · rw [heq]
    exact ⟨fun h1 h0 => Bool.noConfusion (h0.symm.trans h1), fun h0 h1 => Bool.noConfusion (h0.symm.trans h1)⟩
  · exact ⟨fun _ _ => hreset, fun _ h1 => Bool.noConfusion (ht.symm.trans h1)⟩
  · exact ⟨fun _ h0 => Bool.noConfusion (h0.symm.trans ht), fun _ _ => hloads⟩

end Sys2Proof.Machine
end

section
/-! PROOFS. Runs: every packet is answered (R78, R80), later events have no influence (R26), and an absent frame cannot
be observed (R19). -/

namespace Sys2Proof.Machine

/-! ### Every packet is answered -/

theorem packetCount_cons (e : HostEvent) (es : List HostEvent) :
    packetCount (e :: es) = packetCount [e] + packetCount es := by
  rw [packetCount, packetCount, packetCount, ← List.length_append, ← List.filter_append, List.singleton_append]

/-- A step with an event to take answers, takes it off, and responds once if it is a packet. -/
theorem step_answers {s : State} {e : HostEvent} {rest : List HostEvent} (hin : s.inbox = e :: rest) :
    ∃ t rs, step s = .next t ∧ t.inbox = rest ∧ t.outbox = s.outbox ++ rs ∧ rs.length = packetCount [e] := by
  obtain ⟨t, ht, heffect⟩ := takeEvent_effect e (s.withInbox rest)
  obtain ⟨hrest, rs, hout, hlen, _⟩ := heffect.answers
  exact ⟨t, rs, (step_cons hin).trans ht, hrest, hout, hlen⟩

/-- A run over the events of the inbox, by induction on them. -/
theorem run_answers (es : List HostEvent) (s : State) (hin : s.inbox = es) :
    ∃ t answers, Host.Core.run Sys2Proof.core es.length s = .next t
      ∧ t.inbox = [] ∧ t.outbox = s.outbox ++ answers ∧ answers.length = packetCount es := by
  induction es generalizing s with
  | nil => exact ⟨s, [], run_zero s, hin, (List.append_nil _).symm, rfl⟩
  | cons e rest ih =>
    obtain ⟨u, rs, hu, hrest, hout, hlen⟩ := step_answers hin
    obtain ⟨t, answers, ht, hempty, hout', hlen'⟩ := ih u hrest
    refine ⟨t, rs ++ answers, (run_succ hu _).trans ht, hempty, ?_, ?_⟩
    · rw [hout', hout, List.append_assoc]
    · rw [List.length_append, hlen, hlen', ← packetCount_cons]

/-- Settles O54: the run takes the events one by one. -/
theorem everyPacketIsAnswered : Obligations.EveryPacketIsAnswered := fun s => run_answers s.inbox s rfl

/-! ### Later events have no influence -/

/-- A command that needs a frame does not see the inbox when what it does with the frame does not. -/
theorem withFrame_withInbox {s t : State} {k k' : Frame → StepOutcome} {l : List HostEvent}
    (hk : ∀ f u, k f = .next u → k' f = .next (u.withInbox l)) (h : s.withFrame k = .next t) :
    (s.withInbox l).withFrame k' = .next (t.withInbox l) := by
  rcases State.withFrame_cases h with ⟨hp, h⟩ | ⟨hp, rfl⟩
  · exact (State.withFrame_present (s := s.withInbox l) hp k').trans (hk _ _ h)
  · exact State.withFrame_absent (s := s.withInbox l) hp k'

/-- No command sees what is still in the inbox. -/
theorem exec_withInbox {i : Instr} {s t : State} (h : exec i s = .next t) (l : List HostEvent) :
    exec i (s.withInbox l) = .next (t.withInbox l) := by
  cases i with
  | enc m => cases h; rfl
  | rxw w =>
    by_cases hw : w.length = 36
    · rw [exec_rxw_of_length hw] at h ⊢; cases h; rfl
    · rw [exec_rxw_of_ne hw] at h ⊢; cases h; rfl
  | val | csum | txw | corc | cors | core | corr =>
    simp only [exec, execVal, execCsum, execTxw, execCorc, execCors, execCore, execCorr, corruptAs, corruptDrawn]
      at h ⊢
    exact withFrame_withInbox (fun _ _ hu => by cases hu; rfl) h

/-- No event sees what comes after it. -/
theorem takeEvent_withInbox (e : HostEvent) (s : State) :
    ∃ t : State, ∀ l, takeEvent e (s.withInbox l) = .next (t.withInbox l) := by
  obtain ⟨t, _, heffect⟩ := takeEvent_effect e s
  refine ⟨t, fun l => ?_⟩
  cases heffect with
  | resets he ht => subst he ht; rfl
  | empty he ht => subst he ht; rfl
  | illegal c he hc hdec ht =>
    obtain ⟨op, v, rfl⟩ := List.exists_cons_of_ne_nil hc
    subst he ht
    exact runPacket_reject hdec _
  | command c i he hdec hx =>
    subst he
    exact (runPacket_ok hdec _).trans (exec_withInbox hx l)

/-- Two runs over the same events, one with more of them behind, by induction on the events. -/
theorem run_withInbox_append (earlier later : List HostEvent) (s : State) :
    ∃ t, Host.Core.run Sys2Proof.core earlier.length (s.withInbox earlier) = .next t
      ∧ t.inbox = []
      ∧ Host.Core.run Sys2Proof.core earlier.length (s.withInbox (earlier ++ later)) = .next (t.withInbox later) := by
  induction earlier generalizing s with
  | nil => exact ⟨s.withInbox [], run_zero _, rfl, run_zero _⟩
  | cons e rest ih =>
    obtain ⟨u, hu⟩ := takeEvent_withInbox e s
    have hstep (l : List HostEvent) : step (s.withInbox (e :: l)) = .next (u.withInbox l) :=
      (step_cons rfl).trans (hu l)
    obtain ⟨t, ht, hempty, ht'⟩ := ih u
    exact ⟨t, (run_succ (hstep rest) _).trans ht, hempty, (run_succ (hstep (rest ++ later)) _).trans ht'⟩

/-- Settles O55: the two runs go in step, since no event sees what comes after it. -/
theorem laterEventsHaveNoInfluence : Obligations.LaterEventsHaveNoInfluence := fun s earlier later =>
  run_withInbox_append earlier later s

/-! ### An absent frame is unobservable -/

/-- Two states of which the host cannot tell one from the other: they differ in the frame at most, and then there is
none (R19). -/
inductive SameToHost (s : State) : State → Prop where
  | equal : SameToHost s s
  | absent (f : Frame) (hp : s.present = false) : SameToHost s (s.setFrame f)

/-- A command run without a frame does the same whatever `F` holds: refuse, or load a new frame. -/
theorem exec_sameToHost {i : Instr} {s : State} (hp : s.present = false) (f : Frame) :
    ∃ t t', exec i s = .next t ∧ exec i (s.setFrame f) = .next t' ∧ SameToHost t t' := by
  by_cases hi : needsFrame i = true
  · exact ⟨_, _, exec_absent hi hp, exec_absent (s := s.setFrame f) hi hp, .absent f hp⟩
  · cases i with
    | enc m => exact ⟨_, _, exec_enc m s, exec_enc m (s.setFrame f), .equal⟩
    | rxw w =>
      by_cases hw : w.length = 36
      · exact ⟨_, _, exec_rxw_of_length hw s, exec_rxw_of_length hw (s.setFrame f), .equal⟩
      · exact ⟨_, _, exec_rxw_of_ne hw s, exec_rxw_of_ne hw (s.setFrame f), .absent f hp⟩
    | val | corc | cors | core | corr | txw | csum => exact absurd rfl hi

/-- An event taken without a frame does the same whatever `F` holds. -/
theorem takeEvent_sameToHost (e : HostEvent) {s : State} (hp : s.present = false) (f : Frame) :
    ∃ t t', takeEvent e s = .next t ∧ takeEvent e (s.setFrame f) = .next t' ∧ SameToHost t t' := by
  obtain ⟨t, ht, heffect⟩ := takeEvent_effect e s
  cases heffect with
  | resets he _ => subst he; exact ⟨_, _, rfl, rfl, .equal⟩
  | empty he _ => subst he; exact ⟨_, _, rfl, rfl, .absent f hp⟩
  | illegal c he hc hdec _ =>
    obtain ⟨op, v, rfl⟩ := List.exists_cons_of_ne_nil hc
    subst he
    exact ⟨_, _, runPacket_reject hdec s, runPacket_reject hdec _, .absent f hp⟩
  | command c i he hdec _ =>
    subst he
    obtain ⟨t, t', hx, hx', hsame⟩ := exec_sameToHost hp f
    exact ⟨t, t', (runPacket_ok hdec s).trans hx, (runPacket_ok hdec _).trans hx', hsame⟩

/-- A step keeps the two states the same to the host. -/
theorem step_sameToHost {s s' : State} (h : SameToHost s s') :
    ∃ t t', step s = .next t ∧ step s' = .next t' ∧ SameToHost t t' := by
  cases h with
  | equal =>
    obtain ⟨t, ht⟩ := everyStateRuns s
    exact ⟨t, t, ht, ht, .equal⟩
  | absent f hp =>
    cases hin : s.inbox with
    | nil => exact ⟨s, _, step_nil hin, step_nil (s := s.setFrame f) hin, .absent f hp⟩
    | cons e rest =>
      rw [step_cons hin, step_cons (s := s.setFrame f) hin]
      exact takeEvent_sameToHost e (s := s.withInbox rest) hp f

/-- So does a run, by induction on its length. -/
theorem run_sameToHost (n : Nat) {s s' : State} (h : SameToHost s s') :
    ∃ t t', Host.Core.run Sys2Proof.core n s = .next t ∧ Host.Core.run Sys2Proof.core n s' = .next t'
      ∧ SameToHost t t' := by
  induction n generalizing s s' with
  | zero => exact ⟨s, s', run_zero s, run_zero s', h⟩
  | succ n ih =>
    obtain ⟨u, u', hu, hu', hsame⟩ := step_sameToHost h
    obtain ⟨t, t', ht, ht', hsame'⟩ := ih hsame
    exact ⟨t, t', (run_succ hu n).trans ht, (run_succ hu' n).trans ht', hsame'⟩

/-- What the host sees of two such states is equal. -/
theorem SameToHost.observations {s s' : State} (h : SameToHost s s') :
    s.outbox = s'.outbox ∧ s.inbox = s'.inbox ∧ s.present = s'.present ∧ (s.present = true → s.frame = s'.frame) := by
  cases h with
  | equal => exact ⟨rfl, rfl, rfl, fun _ => rfl⟩
  | absent f hp => exact ⟨rfl, rfl, rfl, fun ht => absurd (hp.symm.trans ht) Bool.false_ne_true⟩

/-- Settles O52: the two runs go in step, and stay the same to the host (decision D4). -/
theorem absentFrameIsUnobservable : Obligations.AbsentFrameIsUnobservable := by
  intro n s f hp
  obtain ⟨t, t', ht, ht', hsame⟩ := run_sameToHost n (.absent f hp)
  exact ⟨t, t', ht, ht', hsame.observations⟩

end Sys2Proof.Machine
end
